-- ==== Sys2Proof/Word.lean ====
section
/-! DEFINITION. The two widths of FCB-16 (spec/00_scope.md R8): a byte of 8 bits and a word of 16 bits, all unsigned. -/

namespace Sys2Proof

/-- "A byte is an unsigned 8-bit value" (00_scope.md R8). -/
abbrev Byte := BitVec 8

/-- "A word is an unsigned 16-bit value" (00_scope.md R8). -/
abbrev Word := BitVec 16

end Sys2Proof
end

