-- ==== Sys2Proof/Config.lean ====
section
/-! DEFINITION. The constants and the build parameter of FCB-16 (spec/00_scope.md R6, R7).
FCB-16 has no free value: no command has an undefined result (spec/93_implementation_defined.md 1.2). -/

namespace Sys2Proof

/-- `MARKER`, "constant, fixed at build" (00_scope.md R6). Its only value in the spec is `0x7E`, and R7 asks
a proof that depends on it to say so (log 2). -/
def Config.marker : Byte := 0x7E

/-- `MIN_FRAME`, the shortest frame the decoder accepts (00_scope.md R6; 90_conflicts.md C1). -/
abbrev Config.minFrame : Nat := 4

/-- The build parameter of 00_scope.md R6. "A model takes `MAX_FRAME` as an argument": it stands in State, so
that a statement about every state is one about every value of it (log 2). -/
structure Params where
  /-- `MAX_FRAME`, the largest frame in bytes, and the decoder's buffer size. -/
  maxFrame : Nat
  deriving DecidableEq, Repr

/-- The spec's default, `MAX_FRAME = 1024` (00_scope.md R6). -/
def Params.default : Params := ⟨1024⟩

/-- "The legal range of the parameter is `4 <= MAX_FRAME <= 65535`" (00_scope.md R6). -/
abbrev Params.Legal (p : Params) : Prop := 4 ≤ p.maxFrame ∧ p.maxFrame ≤ 65535

end Sys2Proof
end

