-- ==== Sys2Proof/Syntax.lean ====
section
/-! DEFINITION. The commands of FCB-16: one constructor per row of spec/opcode_table.json (spec/30_encoding.md R51).
Illegal opcodes (R52) are no row of the table: the decoder rejects them by name (log 9). -/

namespace Sys2Proof

/-- A complete command. Its operand is the data section `DATA`, and `LEN` is that section's length
(30_encoding.md R45, R47). -/
inductive Instr where
  /-- `0x01`: load polynomial and initial value, build `TABLE` (40_crc.md R74). -/
  | cfg (data : List Byte)
  /-- `0x02`: encode a payload into a frame (41_encoder.md R82). -/
  | enc (data : List Byte)
  /-- `0x03`: decode and validate one frame (42_decoder.md R93). -/
  | dec (data : List Byte)
  /-- `0x04`: CRC-16 of the data section (40_crc.md R75). -/
  | crc (data : List Byte)
  deriving DecidableEq, Repr

end Sys2Proof
end

