-- ==== Sys2Proof/WellFormed.lean ====
section
/-! DEFINITION. Which terms of Instr are commands: those whose `LEN` fits the header's 16-bit field
(spec/30_encoding.md R46). A `LEN` out of its opcode's range (R53) is well-formed, and answers a status. -/

namespace Sys2Proof

/-- "data-section length in bytes, unsigned, `0..65535`" (30_encoding.md R46). -/
def lenFits (data : List Byte) : Bool := decide (data.length ≤ 65535)

/-- "every value of `LEN` is well-formed as a header" (30_encoding.md R46), for every command. -/
def Instr.wf : Instr → Bool
  | .cfg data => lenFits data
  | .enc data => lenFits data
  | .dec data => lenFits data
  | .crc data => lenFits data

end Sys2Proof
end

