-- ==== Sys2Proof/Decode.lean ====
section
/-! DEFINITION. Command bytes to commands and back (spec/30_encoding.md R45 to R48, R51, R52), and the byte order of
every two-byte field (spec/00_scope.md R9, spec/20_memory.md R34). -/

namespace Sys2Proof

/-- `be16(v)` is `[v[15:8], v[7:0]]` (00_scope.md R9). -/
def be16 (v : Word) : List Byte := [v.extractLsb' 8 8, v.extractLsb' 0 8]

/-- `from_be16(h, l)` is the word `(h << 8) | l` (00_scope.md R9). -/
def fromBe16 (h l : Byte) : Word := (h.setWidth 16 <<< 8) ||| l.setWidth 16

/-- What a byte sequence begins with (30_encoding.md R62: "Command decoding is total"). -/
inductive Decoded where
  /-- One of the four commands, and the bytes after it. -/
  | command (i : Instr) (rest : List Byte)
  /-- Rejected by name: a complete command whose opcode is illegal (R52), and the bytes after it. -/
  | illegalOpcode (opc : Byte) (data rest : List Byte)
  /-- A proper prefix of a command: more bytes must arrive (R47). -/
  | incomplete
  deriving DecidableEq, Repr

/-- The opcode map (30_encoding.md R51); "Every other value is illegal" (R52). -/
def decodeOpcode (opc : Byte) (data rest : List Byte) : Decoded :=
  if opc = 0x01 then .command (.cfg data) rest
  else if opc = 0x02 then .command (.enc data) rest
  else if opc = 0x03 then .command (.dec data) rest
  else if opc = 0x04 then .command (.crc data) rest
  else .illegalOpcode opc data rest

/-- The first command of a byte sequence. It is complete when `3 + LEN` bytes are there, whatever the opcode
(30_encoding.md R47, R48), and "The bytes after a complete command begin the next command". -/
def decode : List Byte → Decoded
  | opc :: hi :: lo :: body =>
    let len := (fromBe16 hi lo).toNat
    if body.length < len then .incomplete
    else decodeOpcode opc (body.take len) (body.drop len)
  | _ => .incomplete

/-- `len(PENDING) >= 3 and len(PENDING) = 3 + from_be16(PENDING[1], PENDING[2])` (20_memory.md R31). -/
def isComplete : List Byte → Bool
  | _ :: hi :: lo :: body => body.length == (fromBe16 hi lo).toNat
  | _ => false

/-- The opcode of a command (30_encoding.md R51). -/
def Instr.opc : Instr → Byte
  | .cfg _ => 0x01
  | .enc _ => 0x02
  | .dec _ => 0x03
  | .crc _ => 0x04

/-- The data section of a command (30_encoding.md R45). -/
def Instr.data : Instr → List Byte
  | .cfg data => data
  | .enc data => data
  | .dec data => data
  | .crc data => data

/-- The three header bytes `[OPC][LEN_HI][LEN_LO]` (30_encoding.md R45). -/
def header (opc : Byte) (len : Nat) : List Byte := opc :: be16 (BitVec.ofNat 16 len)

/-- The bytes of a command on `CMDIN`: header, then data section (30_encoding.md R45). -/
def encode (i : Instr) : List Byte := header i.opc i.data.length ++ i.data

/-- A table word's bytes as `CMDIN` carries them. The table numbers the header as one 24-bit big-endian word
`H` (30_encoding.md R46), so `CMD[0]` is `H[23:16]`; the `LEN` data bytes after it lie above the table's bits and
are zero (log 10). -/
def tableBytes (nbits w : Nat) : List Byte :=
  let h := BitVec.ofNat 24 (w % 2 ^ nbits)
  [h.extractLsb' 16 8, h.extractLsb' 8 8, h.extractLsb' 0 8] ++
    List.replicate (h.extractLsb' 0 16).toNat 0

/-- The command this decoder reads from an opcode-table word. -/
def decodeTableWord (nbits w : Nat) : Option Instr :=
  match decode (tableBytes nbits w) with
  | .command i _ => some i
  | .illegalOpcode _ _ _ => none
  | .incomplete => none

end Sys2Proof
end

