-- ==== Sys2Proof/Machine/State.lean ====
section
/-! DEFINITION. The state of FCB-16 as plain data (spec/10_state.md R17), the host's acts that wait to be taken
(spec/20_memory.md R30, R31, R36; spec/70_reset_and_hazards.md R116), and the state after reset (R118).
FCB-16 has no addressable memory (20_memory.md R30, R40), so there is no list of memory cells. -/

namespace Sys2Proof.Machine

/-- One act of the host on the block's three inputs (60_exceptions.md R113). -/
inductive HostEvent where
  /-- The host writes one byte to `CMDIN` (20_memory.md R31). -/
  | write (b : Byte)
  /-- The host takes one byte from the head of `RESPQ` (20_memory.md R36). -/
  | take
  /-- The reset input, which "can occur between any two bytes on `CMDIN`" (70_reset_and_hazards.md R116). -/
  | reset
  deriving DecidableEq, Repr

/-- The architectural state (10_state.md R17), the host's acts, and the build parameter. -/
structure State where
  /-- `CFG_VALID`, 1 bit: a CFG command has succeeded since reset (10_state.md R18). -/
  cfgValid : Bool
  /-- `POLY`, 16 bits, normal form, the `x^16` term implicit (10_state.md R19). -/
  poly : Word
  /-- `INIT`, 16 bits, the CRC register before the first byte (10_state.md R20). -/
  init : Word
  /-- `TABLE[0..255]`, 16 bits each (10_state.md R21). -/
  table : Vector Word 256
  /-- `PENDING`, the bytes of the current command that have arrived (10_state.md R24). -/
  pending : List Byte
  /-- `RESPQ`, response bytes not yet taken by the host, oldest first (10_state.md R25). -/
  respq : List Byte
  /-- The host's acts not yet taken by the block, in the order in which they happen: the bytes of `CMDIN`
  (20_memory.md R30, R31) between the taking of response bytes and resets (log 3). -/
  inputs : List HostEvent
  /-- The build parameter `MAX_FRAME`; no step writes it (00_scope.md R6; log 2). -/
  params : Params
  deriving DecidableEq, Repr

/-- FCB-16 has no fault: "FCB-16 raises no synchronous exception or trap in the processor sense"
(60_exceptions.md R97), every error is a status byte of a response. So no reason for a fault exists. -/
inductive Fault where
  deriving DecidableEq, Repr

/-- Why a step has no meaning. -/
inductive Refusal where
  /-- Raised by an arm of exec whose command has no meaning yet. No arm raises it: all four commands have their
  meaning. Safe: it stops where the block goes on. -/
  | notModelled (mnemonic : String)
  deriving DecidableEq, Repr

/-- The state after reset of a block built with `p` (70_reset_and_hazards.md R116, R118). "`POLY`, `INIT`, `TABLE`
<- unspecified": DESIGN CHOICE zero, unsafe (log 1). -/
def State.resetWith (p : Params) : State where
  cfgValid := false
  poly := 0
  init := 0
  table := Vector.replicate 256 0
  pending := []
  respq := []
  inputs := []
  params := p

/-- The machine right after reset, with the spec's default `MAX_FRAME` (log 1, log 2). -/
def State.reset : State := State.resetWith Params.default

end Sys2Proof.Machine
end

