-- ==== Sys2Proof/Machine/Operands.lean ====
section
/-! DEFINITION. The operand forms: slices of a command's data section `DBUF` (spec/00_scope.md R10, spec/20_memory.md
R32), the CFG operands (spec/30_encoding.md R54), the fields of a frame (R56), and the bounds on `LEN` (R53). -/

namespace Sys2Proof.Machine

/-- `MemRead(buf, i, n)` is `buf[i..i+n)` (00_scope.md R10). -/
def memRead (buf : List Byte) (i n : Nat) : List Byte := (buf.drop i).take n

/-- `MemRead(buf, i, 1)[0]`. The rules use it only inside the buffer (20_memory.md R32), so the zero past the end
is never read (log 11). -/
def byteAt (buf : List Byte) (i : Nat) : Byte := (memRead buf i 1).headD 0

/-- `from_be16` of the two bytes at `i`. -/
def wordAt (buf : List Byte) (i : Nat) : Word := fromBe16 (byteAt buf i) (byteAt buf (i + 1))

/-- `poly = from_be16(DATA[0], DATA[1])` (30_encoding.md R54). -/
def cfgPoly (data : List Byte) : Word := wordAt data 0

/-- `init = from_be16(DATA[2], DATA[3])` (30_encoding.md R54). -/
def cfgInit (data : List Byte) : Word := wordAt data 2

/-- `F[0]`, compared with the marker (42_decoder.md R87). -/
def frameMarker (frame : List Byte) : Byte := byteAt frame 0

/-- `declared = from_be16(F[L-2], F[L-1])` (42_decoder.md R88). -/
def frameDeclared (frame : List Byte) : Word := wordAt frame (frame.length - 2)

/-- The candidate payload `cand = F[1..L-2)`, of length `L - 3` (42_decoder.md R89). -/
def frameCandidate (frame : List Byte) : List Byte := memRead frame 1 (frame.length - 3)

/-- `MAX_PAYLOAD = MAX_FRAME - 3` (00_scope.md R6; 90_conflicts.md C2). -/
def maxPayload (p : Params) : Nat := p.maxFrame - 3

end Sys2Proof.Machine
end

