-- ==== Sys2Proof/Machine/Flags.lean ====
section
/-! DEFINITION. FCB-16 has no flags or condition codes (spec/10_state.md R23): a command's result is the status byte at
the head of its response (spec/60_exceptions.md R98). -/

namespace Sys2Proof.Machine

/-- The eight statuses (60_exceptions.md R98): "No other status value is ever produced". -/
inductive Status where
  | ok
  | frameTooShort
  | invalidStart
  | checksumMismatch
  | notConfigured
  | alreadyConfigured
  | illegalCommand
  | lengthOutOfRange
  deriving DecidableEq, Repr

/-- The code of a status (60_exceptions.md R98). -/
def statusCode : Status → Byte
  | .ok => 0x00
  | .frameTooShort => 0x01
  | .invalidStart => 0x02
  | .checksumMismatch => 0x03
  | .notConfigured => 0x10
  | .alreadyConfigured => 0x11
  | .illegalCommand => 0x12
  | .lengthOutOfRange => 0x13

end Sys2Proof.Machine
end

