-- ==== Sys2Proof/Machine/Ops.lean ====
section
/-! DEFINITION. The named operations over the state: answering (spec/20_memory.md R36), raising a status
(spec/60_exceptions.md R103, the one thing an error does; there is no trap and no return from one, R97, R105), the
streams (spec/20_memory.md R31, R36) and reset (spec/70_reset_and_hazards.md R116). -/

namespace Sys2Proof.Machine

/-- The bytes of a response, `[status] ++ be16(len(data)) ++ data` (00_scope.md R10; 30_encoding.md R49). -/
def response (st : Status) (data : List Byte) : List Byte :=
  statusCode st :: be16 (BitVec.ofNat 16 data.length) ++ data

/-- `respond(status, data)`: appends one response to `RESPQ` (20_memory.md R36). -/
def respond (st : Status) (data : List Byte) (s : State) : State :=
  { s with respq := s.respq ++ response st data }

/-- `raise S`: `respond(S, [])` and the end of the command, "with no other state change"
(00_scope.md R10; 60_exceptions.md R103). -/
def raise (st : Status) (s : State) : Host.Outcome State Fault Refusal :=
  .next (respond st [] s)

/-- `PENDING <- PENDING ++ [b]` (20_memory.md R31). -/
def appendPending (b : Byte) (s : State) : State :=
  { s with pending := s.pending ++ [b] }

/-- `PENDING <- []`, after the command has run (20_memory.md R31). -/
def clearPending (s : State) : State :=
  { s with pending := [] }

/-- The end of a command: `PENDING` is cleared in the state it leaves (20_memory.md R31). -/
def retire : Host.Outcome State Fault Refusal → Host.Outcome State Fault Refusal
  | .next s => .next (clearPending s)
  | .fault r => .fault r
  | .refused r => .refused r

/-- The host takes the byte at the head of `RESPQ`, and "Taking a byte removes it" (20_memory.md R36). With
`RESPQ` empty there is none to take: DESIGN CHOICE no effect, unsafe (log 4). -/
def takeResponse (s : State) : State :=
  { s with respq := s.respq.tail }

/-- The reset event (70_reset_and_hazards.md R116): the state after reset of the same block. The host's later acts
are its own, and stay. -/
def resetEvent (s : State) : State :=
  { State.resetWith s.params with inputs := s.inputs }

/-- The host writes `bs` to `CMDIN`, after what it has already done (20_memory.md R31). -/
def hostWrites (bs : List Byte) (s : State) : State :=
  { s with inputs := s.inputs ++ bs.map HostEvent.write }

/-- The block takes the host's next act from the list (log 3). -/
def withInputs (es : List HostEvent) (s : State) : State :=
  { s with inputs := es }

/-- An illegal opcode, `0x00` or `0x05..0xFF`: status ILLEGAL_COMMAND, "and changes no state"
(30_encoding.md R52). -/
def execIllegal (s : State) : Host.Outcome State Fault Refusal := raise .illegalCommand s

end Sys2Proof.Machine
end

