-- ==== Sys2Proof/Machine/Crc.lean ====
section
/-! DEFINITION. The CRC-16 generator: the function (spec/40_crc.md R63 to R69), and the commands CFG (R74) and CRC (R75). -/

namespace Sys2Proof.Machine

/-- One shift of the CRC register: `(c << 1) & 0xFFFF`, and XOR with the polynomial when `c[15] = 1`
(40_crc.md R64). -/
def crcShift (poly c : Word) : Word := if c.msb then (c <<< 1) ^^^ poly else c <<< 1

/-- `n` shifts (40_crc.md R64 repeats 8 times). -/
def crcShifts (poly : Word) : Nat → Word → Word
  | 0, c => c
  | n + 1, c => crcShifts poly n (crcShift poly c)

/-- `crc_step(c, b, poly)`: the byte enters at bits 15..8, most significant bit first, then 8 shifts
(40_crc.md R64). -/
def crcStep (c : Word) (b : Byte) (poly : Word) : Word :=
  crcShifts poly 8 (c ^^^ (b.setWidth 16 <<< 8))

/-- `CRC16(d, poly, init)`: `crc_step` folded over `d` from `init`; no reflection and no final XOR
(40_crc.md R63, R65). -/
def crc16 (d : List Byte) (poly init : Word) : Word :=
  d.foldl (fun c b => crcStep c b poly) init

/-- `T_poly(i) = crc_step(0x0000, i, poly)` (40_crc.md R67). -/
def tableEntry (poly : Word) (i : Byte) : Word := crcStep 0#16 i poly

/-- All 256 entries, `TABLE[i] <- T_POLY(i)` (40_crc.md R67, R74). -/
def buildTable (poly : Word) : Vector Word 256 :=
  Vector.ofFn fun i => tableEntry poly (BitVec.ofNat 8 i.val)

/-- The table-driven step, `((c << 8) & 0xFFFF) XOR T(c[15:8] XOR b)` (40_crc.md R68). -/
def crcStepByTable (table : Vector Word 256) (c : Word) (b : Byte) : Word :=
  (c <<< 8) ^^^ table.get (c.extractLsb' 8 8 ^^^ b).toFin

/-- The CRC computed through `TABLE`. "The method cannot be observed" (40_crc.md R69): the commands compute bitwise
from `POLY`, and this is the other method over the same state (log 6). -/
def crc16ByTable (d : List Byte) (table : Vector Word 256) (init : Word) : Word :=
  d.foldl (crcStepByTable table) init

/-- Every checksum of the block is `CRC16(payload, POLY, INIT)` (40_crc.md R65). -/
def checksum (d : List Byte) (s : State) : Word := crc16 d s.poly s.init

/-- A successful CFG's writes: `POLY`, `INIT`, all of `TABLE`, and `CFG_VALID <- 1`, in one step (40_crc.md R74). -/
def loadConfig (poly init : Word) (s : State) : State :=
  { s with poly := poly, init := init, table := buildTable poly, cfgValid := true }

/-- CFG: load the configuration and build the table (40_crc.md R74). -/
def execCfg (data : List Byte) (s : State) : Host.Outcome State Fault Refusal :=
  if data.length ≠ 4 then raise .lengthOutOfRange s
  else if s.cfgValid then raise .alreadyConfigured s
  else .next (respond .ok [] (loadConfig (cfgPoly data) (cfgInit data) s))

/-- CRC: checksum of the data section (40_crc.md R75). -/
def execCrc (data : List Byte) (s : State) : Host.Outcome State Fault Refusal :=
  if s.cfgValid = false then raise .notConfigured s
  else .next (respond .ok (be16 (checksum (memRead data 0 data.length) s)) s)

end Sys2Proof.Machine
end

