-- ==== Sys2Proof/Machine/Decoder.lean ====
section
/-! DEFINITION. The frame decoder: the command DEC, its three checks in the source's order (spec/42_decoder.md R85 to R93). -/

namespace Sys2Proof.Machine

/-- DEC: decode and validate one frame (42_decoder.md R93). -/
def execDec (data : List Byte) (s : State) : Host.Outcome State Fault Refusal :=
  if s.params.maxFrame < data.length then raise .lengthOutOfRange s
  else if s.cfgValid = false then raise .notConfigured s
  else if data.length < Config.minFrame then raise .frameTooShort s
  else if frameMarker data ≠ Config.marker then raise .invalidStart s
  else if checksum (frameCandidate data) s ≠ frameDeclared data then raise .checksumMismatch s
  else .next (respond .ok (frameCandidate data) s)

end Sys2Proof.Machine
end

