-- ==== Sys2Proof/Machine/Encoder.lean ====
section
/-! DEFINITION. The frame encoder: the wire frame (spec/30_encoding.md R55, R56) and the command ENC (spec/41_encoder.md R82). -/

namespace Sys2Proof.Machine

/-- The wire frame, `[MARKER] ++ payload ++ be16(checksum)`, high byte first (30_encoding.md R56; 20_memory.md R33). -/
def wireFrame (payload : List Byte) (check : Word) : List Byte :=
  Config.marker :: payload ++ be16 check

/-- ENC: encode a payload into a frame (41_encoder.md R82). -/
def execEnc (data : List Byte) (s : State) : Host.Outcome State Fault Refusal :=
  if maxPayload s.params < data.length then raise .lengthOutOfRange s
  else if s.cfgValid = false then raise .notConfigured s
  else
    let p := memRead data 0 data.length
    .next (respond .ok (wireFrame p (checksum p s)) s)

end Sys2Proof.Machine
end

