-- ==== Sys2Proof/Machine/Dispatch.lean ====
section
/-! DEFINITION. One arm per command (spec/30_encoding.md R51). -/

namespace Sys2Proof.Machine

def exec (i : Instr) (s : State) : Host.Outcome State Fault Refusal :=
  match i with
  | .cfg data => Sys2Proof.Machine.execCfg data s
  | .enc data => Sys2Proof.Machine.execEnc data s
  | .dec data => Sys2Proof.Machine.execDec data s
  | .crc data => Sys2Proof.Machine.execCrc data s

end Sys2Proof.Machine
end

