-- ==== Sys2Proof/Machine/Stream.lean ====
section
/-! DEFINITION. Taking the host's acts: a byte of `CMDIN` (spec/20_memory.md R31), a byte of `RESPQ` (R36), reset
(spec/70_reset_and_hazards.md R116). -/

namespace Sys2Proof.Machine

/-- `execute(opc, len, data)` on the bytes of a command (20_memory.md R31; 30_encoding.md R51, R52). -/
def execute (cmd : List Byte) (s : State) : Host.Outcome State Fault Refusal :=
  match decode cmd with
  | .command i _ => exec i s
  | .illegalOpcode _ _ _ => execIllegal s
  | .incomplete => .next s

/-- Taking one byte `b`: it joins `PENDING`, and when `PENDING` then holds a complete command, that command runs in
the same step and `PENDING` becomes `[]` (20_memory.md R31). -/
def takeByte (b : Byte) (s : State) : Host.Outcome State Fault Refusal :=
  let s' := appendPending b s
  if isComplete s'.pending then retire (execute s'.pending s') else .next s'

/-- The block takes the host's next act. With none, it is idle and "all state of 10_state.md is kept"
(60_exceptions.md R112; log 5). -/
def takeEvent (s : State) : Host.Outcome State Fault Refusal :=
  match s.inputs with
  | [] => .next s
  | .write b :: es => takeByte b (withInputs es s)
  | .take :: es => .next (takeResponse (withInputs es s))
  | .reset :: es => .next (resetEvent (withInputs es s))

/-- The block with the first bytes of a command already in `PENDING` and its last byte the next on `CMDIN`, so that
the next step takes that byte and runs the command (log 12). -/
def withCommand (cmd : List Byte) (s : State) : State :=
  { s with
    pending := cmd.dropLast
    inputs := (cmd.drop (cmd.length - 1)).map HostEvent.write ++ s.inputs }

end Sys2Proof.Machine
end

