-- ==== Sys2Proof/Machine/Step.lean ====
section
/-! DEFINITION. One step: one act of the host is taken (spec/20_memory.md R31, R36, R38). -/

namespace Sys2Proof.Machine

/-- One step of FCB-16. -/
def step (s : State) : Host.Outcome State Fault Refusal := takeEvent s

/-- `s` about to run the command of an opcode-table word (log 10, log 12). -/
def State.withFetchWord (s : State) (nbits w : Nat) : State := withCommand (tableBytes nbits w) s

end Sys2Proof.Machine
end

