-- ==== Sys2Proof/Safety.lean ====
section
/-! DEFINITION. The words in which claims about FCB-16 are said: runs, the invariants of spec/10_state.md R29, the split of a
byte stream (spec/30_encoding.md R62), the ranked causes of a status (spec/60_exceptions.md R102), a flipped bit (spec/42_decoder.md R96). -/

namespace Sys2Proof.Machine

/-- `n` steps, each taking one act of the host. -/
def run : Nat → State → Host.Outcome State Fault Refusal
  | 0, s => .next s
  | n + 1, s =>
    match step s with
    | .next t => run n t
    | .fault r => .fault r
    | .refused r => .refused r

/-- A safe run: it never stops with a fault or a refusal (60_exceptions.md R97: no trap; 30_encoding.md R62: no sequence is
refused at the parse level). -/
def SafeRun (s : State) : Prop := ∀ n, ∃ t, run n s = .next t

/-- `RLEN` as its two bytes, high byte first (30_encoding.md R49; 20_memory.md R34), from the number itself. -/
def lenBytes (n : Nat) : List Byte := [BitVec.ofNat 8 (n / 256), BitVec.ofNat 8 n]

/-- A 16-bit value as its two bytes, high byte first (20_memory.md R33, R34), from the number itself. -/
def wordBytes (w : Word) : List Byte := [BitVec.ofNat 8 (w.toNat / 256), BitVec.ofNat 8 w.toNat]

/-- The 16-bit value of two bytes, high byte first, as a number (00_scope.md R9; 20_memory.md R34). -/
def be16Nat (h l : Byte) : Nat := 256 * h.toNat + l.toNat

/-- A complete command: a header and exactly `LEN` data bytes (30_encoding.md R45, R47). -/
def CompleteCommand (bs : List Byte) : Prop :=
  ∃ opc hi lo data, bs = opc :: hi :: lo :: data ∧ data.length = be16Nat hi lo

/-- A proper prefix of a command (30_encoding.md R62): the header is not whole, or fewer than `LEN` bytes follow it. -/
def ProperPrefix (bs : List Byte) : Prop :=
  bs.length < 3 ∨ ∃ opc hi lo data, bs = opc :: hi :: lo :: data ∧ data.length < be16Nat hi lo

/-- `bs` splits into complete commands and a proper prefix of a command (30_encoding.md R62). -/
def Splits (bs : List Byte) (p : List (List Byte) × List Byte) : Prop :=
  (∀ c ∈ p.1, CompleteCommand c) ∧ ProperPrefix p.2 ∧ bs = p.1.flatten ++ p.2

/-- A whole response (30_encoding.md R49): OK with data, or another of the eight statuses of 60_exceptions.md R98 with none
(R50). -/
def WholeResponse (r : List Byte) : Prop :=
  (∃ data, data.length ≤ 65535 ∧ r = 0x00 :: lenBytes data.length ++ data) ∨
    ∃ st ∈ [0x01, 0x02, 0x03, 0x10, 0x11, 0x12, 0x13], r = [st, 0x00, 0x00]

/-- I-1 (10_state.md R29): while configured, `TABLE[i] = T_POLY(i)` for every `i` in 0..255. -/
def TableCoherent (s : State) : Prop :=
  s.cfgValid = true → ∀ i : Fin 256, s.table.get i = crcStep 0 (BitVec.ofNat 8 i) s.poly

/-- I-4 (10_state.md R29): `RESPQ` is a concatenation of whole responses with some prefix of the first removed. -/
def RespqWhole (s : State) : Prop :=
  ∃ (taken : List Byte) (rs : List (List Byte)), (∀ r ∈ rs, WholeResponse r) ∧ taken ++ s.respq = rs.flatten ∧
    ∀ r ∈ rs.head?, taken.length < r.length

/-- The invariants of 10_state.md R29 that one state shows, with I-3 in the form R24 gives a reason for (`PENDING` is a
proper prefix of a command), and the legal range of `MAX_FRAME` (00_scope.md R6). -/
structure Inv (s : State) : Prop where
  params : s.params.Legal
  table : TableCoherent s
  pending : ProperPrefix s.pending
  respq : RespqWhole s

/-- Two states that agree but for `POLY`, `INIT` and `TABLE` while `CFG_VALID = 0` (10_state.md R29, I-2). -/
def SameButUnloaded (s t : State) : Prop :=
  s.cfgValid = t.cfgValid ∧ s.pending = t.pending ∧ s.respq = t.respq ∧ s.inputs = t.inputs ∧ s.params = t.params ∧
    (s.cfgValid = true → s.poly = t.poly ∧ s.init = t.init ∧ s.table = t.table)

/-- The status that 60_exceptions.md R102 gives a command of opcode `opc` with data section `data`: the first cause that
applies, in the order of its table, with the code of R98, else OK. -/
def rankedStatus (opc : Byte) (data : List Byte) (s : State) : Byte :=
  if opc ∉ [0x01, 0x02, 0x03, 0x04] then 0x12
  else if (opc = 0x01 ∧ data.length ≠ 4) ∨ (opc = 0x02 ∧ s.params.maxFrame - 3 < data.length) ∨
      (opc = 0x03 ∧ s.params.maxFrame < data.length)
    then 0x13
  else if opc ≠ 0x01 ∧ s.cfgValid = false then 0x10
  else if opc = 0x01 ∧ s.cfgValid = true then 0x11
  else if opc = 0x03 ∧ data.length < 4 then 0x01
  else if opc = 0x03 ∧ data.head? ≠ some 0x7E then 0x02
  else if opc = 0x03 ∧ wordBytes (crc16 ((data.drop 1).take (data.length - 3)) s.poly s.init) ≠ data.drop (data.length - 2)
    then 0x03
  else 0x00

/-- `bs` with bit `k` of byte `j` flipped (42_decoder.md R96; 40_crc.md R76). -/
def flipBit (bs : List Byte) (j k : Nat) : List Byte := bs.modify j fun b => b ^^^ (1#8 <<< k)

/-- The frame of a payload under the configuration of `s`, byte by byte (30_encoding.md R56). -/
def frameOf (payload : List Byte) (s : State) : List Byte :=
  0x7E :: payload ++ wordBytes (crc16 payload s.poly s.init)

/-- `s` with a response's bytes appended to `RESPQ`, and nothing else changed (20_memory.md R36). -/
def answered (s : State) (bytes : List Byte) : State := { s with respq := s.respq ++ bytes }

end Sys2Proof.Machine
end

