-- ==== Sys2Proof/Certificates/Slice0/Obligations.lean ====
section
/-! DEFINITION. The statements for the provers, each with the rule of spec/ it formalises. Bytes of responses are written as
numbers and two-byte values as `256 * h + l`, not through the model's own helpers, so that a wrong code or byte order would refute them. -/

open Sys2Proof Sys2Proof.Machine

/-! ## Encoding -/

/-- 30_encoding.md sections 1 and 3: decoding the bytes of any well-formed command, with anything after them, gives that
command and the bytes after it. -/
def Obligations.DecodeInvertsEncode : Prop :=
  ∀ (i : Instr) (rest : List Byte), i.wf = true → decode (encode i ++ rest) = .command i rest

/-- 30_encoding.md sections 1 and 3: the bytes a command was read from are its encoding, and it is well-formed. -/
def Obligations.EncodeInvertsDecode : Prop :=
  ∀ (bs rest : List Byte) (i : Instr), decode bs = .command i rest → i.wf = true ∧ bs = encode i ++ rest

/-- 30_encoding.md R51: "`OPC` selects one of four commands. Every other value is illegal". -/
def Obligations.OpcodeSelectsCommand : Prop :=
  ∀ (opc hi lo : Byte) (data rest : List Byte), data.length = be16Nat hi lo →
    (opc = 0x01 → decode (opc :: hi :: lo :: (data ++ rest)) = .command (.cfg data) rest) ∧
    (opc = 0x02 → decode (opc :: hi :: lo :: (data ++ rest)) = .command (.enc data) rest) ∧
    (opc = 0x03 → decode (opc :: hi :: lo :: (data ++ rest)) = .command (.dec data) rest) ∧
    (opc = 0x04 → decode (opc :: hi :: lo :: (data ++ rest)) = .command (.crc data) rest) ∧
    (opc ≠ 0x01 → opc ≠ 0x02 → opc ≠ 0x03 → opc ≠ 0x04 →
      decode (opc :: hi :: lo :: (data ++ rest)) = .illegalOpcode opc data rest)

/-- 30_encoding.md section 6: the spec's own encoding of one of each command, and of an illegal one, decodes as it says. -/
def Obligations.SpecExamplesDecode : Prop :=
  decode [0x01, 0x00, 0x04, 0x10, 0x21, 0xFF, 0xFF] = .command (.cfg [0x10, 0x21, 0xFF, 0xFF]) [] ∧
  decode [0x02, 0x00, 0x05, 0x48, 0x65, 0x6C, 0x6C, 0x6F] = .command (.enc [0x48, 0x65, 0x6C, 0x6C, 0x6F]) [] ∧
  decode [0x03, 0x00, 0x08, 0x7E, 0x48, 0x65, 0x6C, 0x6C, 0x6F, 0xDA, 0xDA] =
    .command (.dec [0x7E, 0x48, 0x65, 0x6C, 0x6C, 0x6F, 0xDA, 0xDA]) [] ∧
  decode [0x04, 0x00, 0x09, 0x31, 0x32, 0x33, 0x34, 0x35, 0x36, 0x37, 0x38, 0x39] =
    .command (.crc [0x31, 0x32, 0x33, 0x34, 0x35, 0x36, 0x37, 0x38, 0x39]) [] ∧
  decode [0x00, 0x00, 0x01, 0x55] = .illegalOpcode 0x00 [0x55] []

/-- 30_encoding.md R62: any byte sequence written from reset splits in exactly one way into complete commands and a proper
prefix of a command; each complete command is one of the four or illegal; the block takes all of it without a stop and
the prefix stays in `PENDING`. -/
def Obligations.StreamSplitsInOneWay : Prop :=
  ∀ (bs : List Byte) (p : Params), ∃ q : List (List Byte) × List Byte,
    Splits bs q ∧ (∀ q', Splits bs q' → q' = q) ∧
    (∀ c ∈ q.1, (∃ i, i.wf = true ∧ decode c = .command i []) ∨
      ∃ opc data, opc ∉ [0x01, 0x02, 0x03, 0x04] ∧ decode c = .illegalOpcode opc data []) ∧
    ∃ t, run bs.length (hostWrites bs (State.resetWith p)) = .next t ∧ t.pending = q.2

/-! ## Steps and the streams -/

/-- 20_memory.md section 1: a step whose byte completes a command runs the decoded command, in the state in which the byte
has joined `PENDING`, and then `PENDING` is cleared. -/
def Obligations.StepRunsDecodedCommand : Prop :=
  ∀ (s : State) (b : Byte) (es : List HostEvent) (i : Instr),
    s.inputs = .write b :: es → CompleteCommand (s.pending ++ [b]) →
    decode (s.pending ++ [b]) = .command i [] →
    step s = retire (exec i { s with inputs := es, pending := s.pending ++ [b] }) ∧
    ∀ t, exec i { s with inputs := es, pending := s.pending ++ [b] } = .next t →
      step s = .next { t with pending := [] }

/-- 20_memory.md section 1: a byte that completes no command joins `PENDING`, and nothing else changes. -/
def Obligations.StepHoldsPartialCommand : Prop :=
  ∀ (s : State) (b : Byte) (es : List HostEvent), s.inputs = .write b :: es →
    ¬ CompleteCommand (s.pending ++ [b]) →
    step s = .next { s with inputs := es, pending := s.pending ++ [b] }

/-- 30_encoding.md R48: "every command, legal or not, consumes exactly `3 + LEN` bytes", whatever the state, and the stream
is in step after it; no byte before the last has any other effect than joining `PENDING`. -/
def Obligations.CommandConsumesItsBytes : Prop :=
  ∀ (s : State) (opc hi lo : Byte) (data : List Byte) (es : List HostEvent),
    data.length = be16Nat hi lo → s.pending = [] →
    s.inputs = (opc :: hi :: lo :: data).map HostEvent.write ++ es →
    (∃ t, run (3 + be16Nat hi lo) s = .next t ∧ t.pending = [] ∧ t.inputs = es) ∧
    ∀ k, k < 3 + be16Nat hi lo →
      run k s = .next { s with
        pending := (opc :: hi :: lo :: data).take k
        inputs := ((opc :: hi :: lo :: data).drop k).map HostEvent.write ++ es }

/-- 20_memory.md section 4: a command is one atomic step, the one in which its last byte is taken. -/
def Obligations.CommandRunsAtItsLastByte : Prop :=
  ∀ (s : State) (i : Instr) (es : List HostEvent), i.wf = true → s.pending = [] →
    s.inputs = (encode i).map HostEvent.write ++ es →
    run (encode i).length s = retire (exec i { s with inputs := es, pending := encode i })

/-- 30_encoding.md R52: an illegal opcode consumes its `3 + LEN` bytes, answers ILLEGAL_COMMAND with `RLEN = 0`, and changes
no state. -/
def Obligations.IllegalCommandAnswers : Prop :=
  ∀ (s : State) (opc hi lo : Byte) (data : List Byte) (es : List HostEvent),
    opc = 0x00 ∨ 0x05 ≤ opc.toNat → data.length = be16Nat hi lo → s.pending = [] →
    s.inputs = (opc :: hi :: lo :: data).map HostEvent.write ++ es →
    run (3 + be16Nat hi lo) s =
      .next { s with inputs := es, respq := s.respq ++ [0x12, 0x00, 0x00] }

/-- 60_exceptions.md section 4: with no act of the host to take, the block is idle and keeps all its state (log 5). -/
def Obligations.IdleKeepsState : Prop :=
  ∀ s : State, s.inputs = [] → step s = .next s

/-- 20_memory.md section 3: the host takes the byte at the head of `RESPQ`; it is removed and nothing else changes. -/
def Obligations.TakeRemovesOldestByte : Prop :=
  ∀ (s : State) (b : Byte) (q : List Byte) (es : List HostEvent), s.inputs = .take :: es →
    s.respq = b :: q → step s = .next { s with inputs := es, respq := q }

/-- 70_reset_and_hazards.md R117: reset throws away the incomplete command and the responses not taken, and the first byte
after it is the first byte of a new command. -/
def Obligations.ResetDropsPendingAndResponses : Prop :=
  ∀ (s : State) (es : List HostEvent), s.inputs = .reset :: es →
    ∃ t, step s = .next t ∧ t.cfgValid = false ∧ t.pending = [] ∧ t.respq = [] ∧ t.inputs = es ∧
      t.params = s.params ∧
      ∀ b es', es = .write b :: es' →
        step t = .next { t with inputs := es', pending := [b] }

/-- 70_reset_and_hazards.md section 1: what the spec gives the state after reset. `POLY`, `INIT` and `TABLE` are unspecified
there, so nothing is said of the model's choice for them (log 1). -/
def Obligations.ResetStateIsUnconfigured : Prop :=
  State.reset.cfgValid = false ∧ State.reset.pending = [] ∧ State.reset.respq = [] ∧
    State.reset.params.maxFrame = 1024

/-- Every run from every state goes on: no command, legal or not, configured or not, stops the block
(60_exceptions.md section 1). -/
def Obligations.EveryRunIsSafe : Prop :=
  ∀ s : State, SafeRun s

/-! ## Invariants -/

/-- The invariants of 10_state.md section 7 hold after reset, for every legal `MAX_FRAME`. -/
def Obligations.ResetMeetsInv : Prop :=
  ∀ p : Params, p.Legal → Inv (State.resetWith p)

/-- 10_state.md section 7: every step, from every state that meets the invariants, keeps them. -/
def Obligations.StepKeepsInv : Prop :=
  ∀ s t : State, Inv s → step s = .next t → Inv t

/-- 10_state.md R22: after a successful CFG, `POLY`, `INIT` and `TABLE` do not change until the next reset, whatever the host
does, and a second CFG is refused with ALREADY_CONFIGURED and changes nothing. -/
def Obligations.ConfigurationIsImmutable : Prop :=
  (∀ (n : Nat) (s t : State), s.cfgValid = true → HostEvent.reset ∉ s.inputs.take n → run n s = .next t →
    t.cfgValid = true ∧ t.poly = s.poly ∧ t.init = s.init ∧ t.table = s.table) ∧
  ∀ (s : State) (data : List Byte), s.cfgValid = true → data.length = 4 →
    exec (.cfg data) s = .next { s with respq := s.respq ++ [0x11, 0x00, 0x00] }

/-- No step changes the build parameter, and no step changes `CFG_VALID` from 1 to 0 but the reset event
(10_state.md section 3). -/
def Obligations.OnlyResetClearsConfiguration : Prop :=
  ∀ (n : Nat) (s t : State), run n s = .next t →
    t.params = s.params ∧
    (s.cfgValid = true → t.cfgValid = false → HostEvent.reset ∈ s.inputs.take n)

/-- 10_state.md section 7, I-2: while `CFG_VALID = 0` nothing the block does depends on `POLY`, `INIT` or `TABLE`. Two runs from
states that agree but for these give the same responses for ever, so the model's choice of log 1 cannot be observed. -/
def Obligations.UnloadedRegistersAreUnobservable : Prop :=
  ∀ (n : Nat) (s t : State), SameButUnloaded s t →
    ∃ s' t', run n s = .next s' ∧ run n t = .next t' ∧ SameButUnloaded s' t'

/-! ## The CRC-16 function -/

/-- 40_crc.md section 1: the CRC is the remainder of `init * x^(8 len) + d * x^16` by `G(x) = x^16 + sum POLY[k] x^k` over
GF(2), the first byte's bit 7 the highest power. -/
def Obligations.CrcIsPolynomialRemainder : Prop :=
  let poly2 := fun (n v : Nat) =>
    ∑ k ∈ Finset.range n, if v.testBit k then (Polynomial.X : Polynomial (ZMod 2)) ^ k else 0
  ∀ (d : List Byte) (poly init : Word),
    poly2 16 (crc16 d poly init).toNat =
      (poly2 16 init.toNat * Polynomial.X ^ (8 * d.length) +
        d.foldl (fun m b => m * Polynomial.X ^ 8 + poly2 8 b.toNat) 0 * Polynomial.X ^ 16) %ₘ
        (Polynomial.X ^ 16 + poly2 16 poly.toNat)

/-- 40_crc.md R68: the table-driven step equals the bitwise one, and computing through `TABLE` gives rule R65's result. -/
def Obligations.TableDrivenCrcAgrees : Prop :=
  (∀ (c : Word) (b : Byte) (poly : Word),
    crcStep c b poly = (c <<< 8) ^^^ crcStep 0 (c.extractLsb' 8 8 ^^^ b) poly) ∧
  ∀ (d : List Byte) (poly init : Word), crc16ByTable d (buildTable poly) init = crc16 d poly init

/-- 40_crc.md R70 and R71: the CRC of nothing is the initial value, and a CRC continues over a split input. -/
def Obligations.CrcOfEmptyAndSplitInput : Prop :=
  (∀ poly init : Word, crc16 [] poly init = init) ∧
  ∀ (a b : List Byte) (poly init : Word), crc16 (a ++ b) poly init = crc16 b poly (crc16 a poly init)

/-- 40_crc.md R72: the CRC is linear over GF(2) in the input and the initial value. -/
def Obligations.CrcIsLinear : Prop :=
  ∀ (a b : List Byte) (poly i1 i2 : Word), a.length = b.length →
    crc16 a poly i1 ^^^ crc16 b poly i2 = crc16 (List.zipWith (· ^^^ ·) a b) poly (i1 ^^^ i2)

/-- 40_crc.md R73: with the polynomial `0x0000` the step ignores its byte, the CRC is given by the length and the initial value
alone, and CFG still accepts the value. -/
def Obligations.ZeroPolynomialIgnoresPayload : Prop :=
  (∀ (c : Word) (b : Byte), crcStep c b 0x0000 = BitVec.ofNat 16 (256 * (c.toNat % 256))) ∧
  (∀ (d : List Byte) (init : Word),
    (d.length = 0 → crc16 d 0x0000 init = init) ∧
    (d.length = 1 → crc16 d 0x0000 init = BitVec.ofNat 16 (256 * (init.toNat % 256))) ∧
    (2 ≤ d.length → crc16 d 0x0000 init = 0x0000)) ∧
  ∀ (s : State) (ih il : Byte), s.cfgValid = false →
    ∃ t, exec (.cfg [0x00, 0x00, ih, il]) s = .next t ∧ t.cfgValid = true ∧ t.poly = 0x0000 ∧
      t.respq = s.respq ++ [0x00, 0x00, 0x00]

/-- 40_crc.md R76: one flipped bit always changes the CRC under a nonzero polynomial, and never under `0x0000` from two bytes on. -/
def Obligations.SingleBitErrorChangesCrc : Prop :=
  ∀ (d : List Byte) (init : Word) (j k : Nat), j < d.length → k < 8 →
    (∀ poly : Word, poly ≠ 0x0000 → crc16 (flipBit d j k) poly init ≠ crc16 d poly init) ∧
    (2 ≤ d.length → crc16 (flipBit d j k) 0x0000 init = crc16 d 0x0000 init)

/-- 70_reset_and_hazards.md section 3, the residue law: a sequence followed by its own CRC has CRC `0x0000`. -/
def Obligations.CrcResidueIsZero : Prop :=
  ∀ (a : List Byte) (poly init : Word),
    crc16 (a ++ wordBytes (crc16 a poly init)) poly init = 0x0000

/-! ## CFG and CRC -/

/-- 30_encoding.md R54 and 40_crc.md section 4: from an unconfigured block, CFG with its four bytes completes: `POLY` is bytes 0 and
1 big-endian, `INIT` bytes 2 and 3, `TABLE[i] = T_POLY(i)`, `CFG_VALID` becomes 1, the response is `00 00 00`, and nothing else
changes. Every one of the 65536 values of each is legal. -/
def Obligations.CfgLoadsConfiguration : Prop :=
  ∀ (s : State) (ph pl ih il : Byte), s.cfgValid = false →
    ∃ tbl : Vector Word 256,
      exec (.cfg [ph, pl, ih, il]) s =
        .next { s with
          cfgValid := true, poly := BitVec.ofNat 16 (be16Nat ph pl), init := BitVec.ofNat 16 (be16Nat ih il), table := tbl
          respq := s.respq ++ [0x00, 0x00, 0x00] } ∧
      ∀ i : Fin 256, tbl.get i = crcStep 0x0000 (BitVec.ofNat 8 i) (BitVec.ofNat 16 (be16Nat ph pl))

/-- 40_crc.md section 4: CFG with another `LEN` than 4 answers LENGTH_OUT_OF_RANGE, configured or not; with `LEN = 4` on a
configured block ALREADY_CONFIGURED; either way nothing but the response changes. -/
def Obligations.CfgRefusals : Prop :=
  ∀ (s : State) (data : List Byte),
    (data.length ≠ 4 → exec (.cfg data) s = .next { s with respq := s.respq ++ [0x13, 0x00, 0x00] }) ∧
    (data.length = 4 → s.cfgValid = true →
      exec (.cfg data) s = .next { s with respq := s.respq ++ [0x11, 0x00, 0x00] })

/-- 40_crc.md section 4: the CRC command completes on every configured block, for every `LEN`: OK and the two checksum bytes,
high byte first, nothing else changed. -/
def Obligations.CrcAnswersChecksum : Prop :=
  ∀ (s : State) (data : List Byte), s.cfgValid = true →
    exec (.crc data) s = .next (answered s
      ([0x00, 0x00, 0x02] ++ wordBytes (crc16 data s.poly s.init)))

/-- 40_crc.md section 2: while `TABLE` is coherent, the CRC command's answer is the one an implementation computes through `TABLE`
and `INIT` alone. -/
def Obligations.CrcAnswerIsTheTableDrivenOne : Prop :=
  ∀ (s : State) (data : List Byte), s.cfgValid = true → TableCoherent s →
    exec (.crc data) s = .next (answered s
      ([0x00, 0x00, 0x02] ++ wordBytes (crc16ByTable data s.table s.init)))

/-! ## ENC -/

/-- 41_encoder.md R79 and R81: on a configured block, with `LEN <= MAX_PAYLOAD`, ENC completes whatever the payload's bytes: OK and
the frame of `P + 3` bytes, 3 to `MAX_FRAME` of them, nothing else changed. The frame's first byte is the marker `0x7E`
(00_scope.md R7). -/
def Obligations.EncAnswersFrame : Prop :=
  ∀ (s : State) (p : List Byte), s.params.Legal → s.cfgValid = true → p.length ≤ s.params.maxFrame - 3 →
    exec (.enc p) s = .next (answered s
      ([0x00] ++ lenBytes (p.length + 3) ++ ([0x7E] ++ p ++ wordBytes (crc16 p s.poly s.init)))) ∧
    (frameOf p s).length = p.length + 3 ∧ 3 ≤ p.length + 3 ∧ p.length + 3 ≤ s.params.maxFrame ∧
    p.length + 3 ≤ 65535

/-- 41_encoder.md R80: a payload longer than `MAX_FRAME - 3` gets LENGTH_OUT_OF_RANGE and no frame; and every frame that ENC
produces fits `MAX_FRAME` bytes. -/
def Obligations.EncBoundsPayload : Prop :=
  ∀ (s : State) (p : List Byte), s.params.Legal →
    (s.params.maxFrame - 3 < p.length →
      exec (.enc p) s = .next { s with respq := s.respq ++ [0x13, 0x00, 0x00] }) ∧
    ∀ (frame : List Byte),
      exec (.enc p) s = .next (answered s ([0x00] ++ lenBytes frame.length ++ frame)) →
      frame.length ≤ s.params.maxFrame

/-- 70_reset_and_hazards.md section 2: while `CFG_VALID = 0`, ENC, DEC and CRC with a `LEN` in range answer NOT_CONFIGURED, and
nothing but the response changes. -/
def Obligations.UnconfiguredCommandsAreRefused : Prop :=
  ∀ (s : State) (data : List Byte), s.cfgValid = false →
    (data.length ≤ s.params.maxFrame - 3 →
      exec (.enc data) s = .next { s with respq := s.respq ++ [0x10, 0x00, 0x00] }) ∧
    (data.length ≤ s.params.maxFrame →
      exec (.dec data) s = .next { s with respq := s.respq ++ [0x10, 0x00, 0x00] }) ∧
    exec (.crc data) s = .next { s with respq := s.respq ++ [0x10, 0x00, 0x00] }

/-! ## DEC -/

/-- 42_decoder.md R88, R89 and R91: the declared checksum is the last two bytes, big-endian; the candidate is what stands between
the marker and it; and when all three checks pass, DEC completes with OK and the candidate, nothing else changed. -/
def Obligations.DecAnswersPayload : Prop :=
  ∀ (s : State) (cand : List Byte) (h l : Byte), s.cfgValid = true → 1 ≤ cand.length →
    cand.length + 3 ≤ s.params.maxFrame → crc16 cand s.poly s.init = BitVec.ofNat 16 (be16Nat h l) →
    exec (.dec ([0x7E] ++ cand ++ [h, l])) s = .next (answered s
      ([0x00] ++ lenBytes cand.length ++ cand))

/-- 42_decoder.md R85, R86, R87 and R90: length, marker, checksum, in this order, and the first that fails decides the status. -/
def Obligations.DecChecksInOrder : Prop :=
  ∀ (s : State), s.params.Legal → s.cfgValid = true →
    (∀ f : List Byte, f.length < 4 →
      exec (.dec f) s = .next { s with respq := s.respq ++ [0x01, 0x00, 0x00] }) ∧
    ∀ (m : Byte) (cand : List Byte) (h l : Byte), 1 ≤ cand.length → cand.length + 3 ≤ s.params.maxFrame →
      (m ≠ 0x7E → exec (.dec ([m] ++ cand ++ [h, l])) s =
        .next { s with respq := s.respq ++ [0x02, 0x00, 0x00] }) ∧
      (m = 0x7E → crc16 cand s.poly s.init ≠ BitVec.ofNat 16 (be16Nat h l) →
        exec (.dec ([m] ++ cand ++ [h, l])) s =
          .next { s with respq := s.respq ++ [0x03, 0x00, 0x00] })

/-- 42_decoder.md section 3: a DEC of more than `MAX_FRAME` bytes gets LENGTH_OUT_OF_RANGE, configured or not, whatever its bytes;
and a successful one returns at most `MAX_FRAME - 3` bytes. -/
def Obligations.DecBoundsFrame : Prop :=
  ∀ (s : State) (f : List Byte), s.params.Legal →
    (s.params.maxFrame < f.length →
      exec (.dec f) s = .next { s with respq := s.respq ++ [0x13, 0x00, 0x00] }) ∧
    ∀ (cand : List Byte),
      exec (.dec f) s = .next (answered s ([0x00] ++ lenBytes cand.length ++ cand)) →
      cand.length ≤ s.params.maxFrame - 3

/-! ## All commands -/

/-- 60_exceptions.md R102: a command reports exactly one status, in its one response: the first cause in the order of the table that
applies; an OK means that none does. -/
def Obligations.StatusIsFirstRankedCause : Prop :=
  ∀ (s : State) (opc hi lo : Byte) (data : List Byte), data.length = be16Nat hi lo →
    ∃ t d, execute (opc :: hi :: lo :: data) s = .next t ∧
      t.respq = s.respq ++ [rankedStatus opc data s] ++ lenBytes d.length ++ d

/-- 30_encoding.md R49: every complete command produces exactly one response, appended to `RESPQ`, of the layout `STATUS`, `RLEN`
high and low, `RLEN` bytes. -/
def Obligations.EveryCommandAnswersOnce : Prop :=
  ∀ (s : State) (cmd : List Byte), s.params.Legal → CompleteCommand cmd →
    ∃ t st data, execute cmd s = .next t ∧ data.length ≤ 65535 ∧
      t.respq = s.respq ++ [st] ++ lenBytes data.length ++ data

/-- 60_exceptions.md sections 1 and 3: a command's status is one of the eight codes, and after any but OK the state is the state before it,
apart from the three bytes of the response. -/
def Obligations.ErrorsArePrecise : Prop :=
  ∀ (s t : State) (i : Instr), exec i s = .next t →
    ∃ st rest, t.respq = s.respq ++ st :: rest ∧
      st ∈ [0x00, 0x01, 0x02, 0x03, 0x10, 0x11, 0x12, 0x13] ∧
      (st ≠ 0x00 → t = { s with respq := s.respq ++ [st, 0x00, 0x00] })

/-- The frame of the commands (10_state.md section 7): ENC, DEC and CRC change nothing but `RESPQ`, which they extend; CFG changes nothing but
`CFG_VALID`, `POLY`, `INIT`, `TABLE` and `RESPQ`, which it extends. `PENDING`, the host's acts and `MAX_FRAME` are untouched by all
four. There is no memory to keep. -/
def Obligations.CommandFrames : Prop :=
  ∀ (s t : State) (data : List Byte),
    ((exec (.enc data) s = .next t ∨ exec (.dec data) s = .next t ∨ exec (.crc data) s = .next t) →
      t.cfgValid = s.cfgValid ∧ t.poly = s.poly ∧ t.init = s.init ∧ t.table = s.table ∧
      t.pending = s.pending ∧ t.inputs = s.inputs ∧ t.params = s.params ∧ s.respq <+: t.respq) ∧
    (exec (.cfg data) s = .next t →
      t.pending = s.pending ∧ t.inputs = s.inputs ∧ t.params = s.params ∧ s.respq <+: t.respq)

/-- 20_memory.md sections 4 and 5: once configured, the response of ENC, DEC and CRC depends on the command and the configuration
alone, so it is the same under every interleaving of the host agents' commands. -/
def Obligations.ResponsesArePure : Prop :=
  ∀ (i : Instr) (s t : State), (∀ data, i ≠ .cfg data) → s.cfgValid = true → t.cfgValid = true →
    s.poly = t.poly → s.init = t.init → s.params = t.params →
    ∃ bytes, exec i s = .next (answered s bytes) ∧ exec i t = .next (answered t bytes)

/-! ## Frames through the block -/

/-- 41_encoder.md R83: ENC of a payload of 1 to `MAX_PAYLOAD` bytes answers OK with a frame, and DEC of that frame, in any later
state of the same configuration, answers OK with the payload; the 3-byte frame of an empty payload answers FRAME_TOO_SHORT. -/
def Obligations.RoundTrip : Prop :=
  ∀ (s u : State) (p : List Byte), s.params.Legal → s.cfgValid = true → p.length ≤ s.params.maxFrame - 3 →
    u.cfgValid = true → u.poly = s.poly → u.init = s.init → u.params = s.params →
    ∃ frame,
      exec (.enc p) s = .next (answered s ([0x00] ++ lenBytes frame.length ++ frame)) ∧
      (1 ≤ p.length → exec (.dec frame) u = .next (answered u ([0x00] ++ lenBytes p.length ++ p))) ∧
      (p.length = 0 → frame.length = 3 ∧
        exec (.dec frame) u = .next { u with respq := u.respq ++ [0x01, 0x00, 0x00] })

/-- 42_decoder.md R96: what DEC answers for an ENC frame with exactly one bit flipped. -/
def Obligations.TamperDetection : Prop :=
  ∀ (s : State) (p : List Byte) (j k : Nat), s.params.Legal → s.cfgValid = true → 1 ≤ p.length →
    p.length ≤ s.params.maxFrame - 3 → j < p.length + 3 → k < 8 →
    (j = 0 → exec (.dec (flipBit (frameOf p s) j k)) s =
      .next { s with respq := s.respq ++ [0x02, 0x00, 0x00] }) ∧
    (p.length + 1 ≤ j → exec (.dec (flipBit (frameOf p s) j k)) s =
      .next { s with respq := s.respq ++ [0x03, 0x00, 0x00] }) ∧
    (1 ≤ j → j ≤ p.length → s.poly ≠ 0x0000 → exec (.dec (flipBit (frameOf p s) j k)) s =
      .next { s with respq := s.respq ++ [0x03, 0x00, 0x00] }) ∧
    (1 ≤ j → j ≤ p.length → s.poly = 0x0000 → exec (.dec (flipBit (frameOf p s) j k)) s =
      .next (answered s ([0x00] ++ lenBytes p.length ++ flipBit p (j - 1) k)))

/-- 70_reset_and_hazards.md section 3: of two frames in one read, DEC answers OK with the wrong payload exactly when the CRC of the
second frame's marker and payload from `0x0000` equals that payload's own checksum, else CHECKSUM_MISMATCH. -/
def Obligations.ConcatenatedFrames : Prop :=
  ∀ (s : State) (a b : List Byte), s.cfgValid = true → a.length + b.length + 6 ≤ s.params.maxFrame →
    (crc16 ([0x7E] ++ b) s.poly 0x0000 = crc16 b s.poly s.init →
      exec (.dec (frameOf a s ++ frameOf b s)) s = .next (answered s
        ([0x00] ++ lenBytes (a.length + b.length + 3) ++
          (a ++ wordBytes (crc16 a s.poly s.init) ++ [0x7E] ++ b)))) ∧
    (crc16 ([0x7E] ++ b) s.poly 0x0000 ≠ crc16 b s.poly s.init →
      exec (.dec (frameOf a s ++ frameOf b s)) s =
        .next { s with respq := s.respq ++ [0x03, 0x00, 0x00] })

/-- 70_reset_and_hazards.md section 3: a frame followed by one extra `0x00` is accepted, under every configuration, with the high
checksum byte as part of the payload. -/
def Obligations.PaddedFrameIsAccepted : Prop :=
  ∀ (s : State) (a : List Byte), s.cfgValid = true → a.length + 4 ≤ s.params.maxFrame →
    exec (.dec (frameOf a s ++ [0x00])) s = .next (answered s
      ([0x00] ++ lenBytes (a.length + 1) ++
        (a ++ [BitVec.ofNat 8 ((crc16 a s.poly s.init).toNat / 256)])))
end

