-- ==== Sys2Proof/Laws/Bytes.lean ====
section
/-! SUPPORT. The byte order of two-byte fields, and the slices of a data section. -/

namespace Sys2Proof

theorem fromBe16_toNat (h l : Byte) : (fromBe16 h l).toNat = 256 * h.toNat + l.toNat := by
  have hl := l.isLt
  have hh := h.isLt
  simp only [fromBe16, BitVec.toNat_or, BitVec.toNat_shiftLeft, BitVec.toNat_setWidth]
  rw [Nat.mod_eq_of_lt (a := h.toNat) (by omega), Nat.mod_eq_of_lt (a := l.toNat) (by omega),
    Nat.mod_eq_of_lt (by rw [Nat.shiftLeft_eq]; omega), ← Nat.shiftLeft_add_eq_or_of_lt hl, Nat.shiftLeft_eq]
  omega

@[simp] theorem fromBe16_high (h l : Byte) : (fromBe16 h l).extractLsb' 8 8 = h := by
  apply BitVec.eq_of_toNat_eq
  rw [BitVec.extractLsb'_toNat, fromBe16_toNat, Nat.shiftRight_eq_div_pow]
  omega

@[simp] theorem fromBe16_low (h l : Byte) : (fromBe16 h l).extractLsb' 0 8 = l := by
  apply BitVec.eq_of_toNat_eq
  rw [BitVec.extractLsb'_toNat, fromBe16_toNat, Nat.shiftRight_zero]
  omega

@[simp] theorem be16_fromBe16 (h l : Byte) : be16 (fromBe16 h l) = [h, l] := by simp [be16]

@[simp] theorem fromBe16_of_be16 (v : Word) : fromBe16 (v.extractLsb' 8 8) (v.extractLsb' 0 8) = v := by
  apply BitVec.eq_of_toNat_eq
  rw [fromBe16_toNat, BitVec.extractLsb'_toNat, BitVec.extractLsb'_toNat, Nat.shiftRight_zero,
    Nat.shiftRight_eq_div_pow]
  omega

/-- `be16` from the number itself. -/
theorem be16_eq (v : Word) : be16 v = [BitVec.ofNat 8 (v.toNat / 256), BitVec.ofNat 8 v.toNat] := by
  have hv := v.isLt
  simp only [be16, List.cons.injEq, and_true]
  constructor <;> apply BitVec.eq_of_toNat_eq
  · rw [BitVec.extractLsb'_toNat, BitVec.toNat_ofNat, Nat.shiftRight_eq_div_pow]
  · rw [BitVec.extractLsb'_toNat, BitVec.toNat_ofNat, Nat.shiftRight_zero]

@[simp] theorem be16_length (v : Word) : (be16 v).length = 2 := rfl

theorem header_eq (opc : Byte) (n : Nat) :
    header opc n = [opc, (BitVec.ofNat 16 n).extractLsb' 8 8, (BitVec.ofNat 16 n).extractLsb' 0 8] := rfl

/-- A `LEN` that fits the header is read back from it (30_encoding.md R46). -/
theorem fromBe16_ofNat {n : Nat} (h : n ≤ 65535) :
    (fromBe16 ((BitVec.ofNat 16 n).extractLsb' 8 8) ((BitVec.ofNat 16 n).extractLsb' 0 8)).toNat = n := by
  rw [fromBe16_of_be16, BitVec.toNat_ofNat]; omega

theorem wf_iff (i : Instr) : i.wf = true ↔ i.data.length ≤ 65535 := by
  cases i <;> simp [Instr.wf, Instr.data, lenFits]

namespace Machine

@[simp] theorem memRead_all (d : List Byte) : memRead d 0 d.length = d := by simp [memRead]

@[simp] theorem response_length (st : Status) (d : List Byte) : (response st d).length = 3 + d.length := by
  simp [response]; omega

@[simp] theorem byteAt_cons_zero (b : Byte) (d : List Byte) : byteAt (b :: d) 0 = b := rfl

@[simp] theorem byteAt_cons_succ (b : Byte) (d : List Byte) (i : Nat) : byteAt (b :: d) (i + 1) = byteAt d i := rfl

theorem byteAt_append_right (a d : List Byte) (i : Nat) : byteAt (a ++ d) (a.length + i) = byteAt d i := by
  simp [byteAt, memRead, List.drop_append, List.drop_eq_nil_of_le]

/-- The three fields of a frame attempt that has all three (30_encoding.md R56). -/
theorem frame_fields (m : Byte) (cand : List Byte) (h l : Byte) :
    frameMarker (m :: cand ++ [h, l]) = m ∧ frameCandidate (m :: cand ++ [h, l]) = cand ∧
      frameDeclared (m :: cand ++ [h, l]) = fromBe16 h l := by
  refine ⟨rfl, ?_, ?_⟩
  · simp [frameCandidate, memRead]
  · have h1 := byteAt_append_right (m :: cand) [h, l] 0
    have h2 := byteAt_append_right (m :: cand) [h, l] 1
    simp only [frameDeclared, wordAt, List.length_append, List.length_cons, List.length_nil] at *
    simp only [show cand.length + 1 + (0 + 1 + 1) - 2 = cand.length + 1 + 0 by omega, h1]
    simp only [show cand.length + 1 + 0 + 1 = cand.length + 1 + 1 by omega, h2]
    rfl

/-- Every frame attempt of at least three bytes has the three fields. -/
theorem frame_split {f : List Byte} (h : 3 ≤ f.length) : ∃ m cand h l, f = m :: cand ++ [h, l] := by
  match f, h with
  | m :: rest, h =>
    have hr : 2 ≤ rest.length := by simpa using h
    have hd : (rest.drop (rest.length - 2)).length = 2 := by simp; omega
    match hx : rest.drop (rest.length - 2), hd with
    | [a, b], _ =>
      refine ⟨m, rest.take (rest.length - 2), a, b, ?_⟩
      rw [← hx]; simp

end Machine

end Sys2Proof
end

