-- ==== Sys2Proof/Laws/Crc.lean ====
section
/-! SUPPORT. The small laws of the CRC register: a shift is linear over GF(2), and the entries of a built table. -/

namespace Sys2Proof.Machine

/-- One shift is linear over GF(2). -/
theorem crcShift_xor (poly a b : Word) :
    crcShift poly (a ^^^ b) = crcShift poly a ^^^ crcShift poly b := by
  unfold crcShift
  rw [BitVec.msb_xor, BitVec.shiftLeft_xor_distrib]
  cases a.msb <;> cases b.msb <;> ext k hk <;> simp <;>
    cases poly[k] <;> cases (a <<< 1)[k] <;> cases (b <<< 1)[k] <;> simp_all

theorem crcShifts_xor (poly : Word) (n : Nat) (a b : Word) :
    crcShifts poly n (a ^^^ b) = crcShifts poly n a ^^^ crcShifts poly n b := by
  induction n generalizing a b with
  | zero => rfl
  | succ n ih => rw [crcShifts, crcShift_xor, ih]; rfl

@[simp] theorem crcShifts_zero_word (poly : Word) (n : Nat) : crcShifts poly n 0#16 = 0#16 := by
  induction n with
  | zero => rfl
  | succ n ih => rw [crcShifts, show crcShift poly 0#16 = 0#16 by simp [crcShift], ih]

/-- A table entry is `T_POLY(i)` (40_crc.md R67). -/
theorem buildTable_get (poly : Word) (i : Fin 256) :
    (buildTable poly).get i = tableEntry poly (BitVec.ofNat 8 i) := by
  simp [buildTable, Vector.get_eq_getElem]

@[simp] theorem crc16_cons (b : Byte) (d : List Byte) (poly c : Word) :
    crc16 (b :: d) poly c = crc16 d poly (crcStep c b poly) := rfl

end Sys2Proof.Machine
end

