-- ==== Sys2Proof/Laws/State.lean ====
section
/-! SUPPORT. One lemma per field per update of State, true by rfl, so that no later proof unfolds a record update. -/

namespace Sys2Proof.Machine

@[simp] theorem resetWith_cfgValid (p : Params) : (State.resetWith p).cfgValid = false := rfl
@[simp] theorem resetWith_pending (p : Params) : (State.resetWith p).pending = [] := rfl
@[simp] theorem resetWith_respq (p : Params) : (State.resetWith p).respq = [] := rfl
@[simp] theorem resetWith_inputs (p : Params) : (State.resetWith p).inputs = [] := rfl
@[simp] theorem resetWith_params (p : Params) : (State.resetWith p).params = p := rfl

@[simp] theorem respond_cfgValid (st : Status) (d : List Byte) (s : State) : (respond st d s).cfgValid = s.cfgValid := rfl
@[simp] theorem respond_poly (st : Status) (d : List Byte) (s : State) : (respond st d s).poly = s.poly := rfl
@[simp] theorem respond_init (st : Status) (d : List Byte) (s : State) : (respond st d s).init = s.init := rfl
@[simp] theorem respond_table (st : Status) (d : List Byte) (s : State) : (respond st d s).table = s.table := rfl
@[simp] theorem respond_pending (st : Status) (d : List Byte) (s : State) : (respond st d s).pending = s.pending := rfl
@[simp] theorem respond_respq (st : Status) (d : List Byte) (s : State) :
    (respond st d s).respq = s.respq ++ response st d := rfl
@[simp] theorem respond_inputs (st : Status) (d : List Byte) (s : State) : (respond st d s).inputs = s.inputs := rfl
@[simp] theorem respond_params (st : Status) (d : List Byte) (s : State) : (respond st d s).params = s.params := rfl

@[simp] theorem loadConfig_cfgValid (p i : Word) (s : State) : (loadConfig p i s).cfgValid = true := rfl
@[simp] theorem loadConfig_poly (p i : Word) (s : State) : (loadConfig p i s).poly = p := rfl
@[simp] theorem loadConfig_init (p i : Word) (s : State) : (loadConfig p i s).init = i := rfl
@[simp] theorem loadConfig_table (p i : Word) (s : State) : (loadConfig p i s).table = buildTable p := rfl
@[simp] theorem loadConfig_pending (p i : Word) (s : State) : (loadConfig p i s).pending = s.pending := rfl
@[simp] theorem loadConfig_respq (p i : Word) (s : State) : (loadConfig p i s).respq = s.respq := rfl
@[simp] theorem loadConfig_inputs (p i : Word) (s : State) : (loadConfig p i s).inputs = s.inputs := rfl
@[simp] theorem loadConfig_params (p i : Word) (s : State) : (loadConfig p i s).params = s.params := rfl

@[simp] theorem appendPending_cfgValid (b : Byte) (s : State) : (appendPending b s).cfgValid = s.cfgValid := rfl
@[simp] theorem appendPending_poly (b : Byte) (s : State) : (appendPending b s).poly = s.poly := rfl
@[simp] theorem appendPending_init (b : Byte) (s : State) : (appendPending b s).init = s.init := rfl
@[simp] theorem appendPending_table (b : Byte) (s : State) : (appendPending b s).table = s.table := rfl
@[simp] theorem appendPending_pending (b : Byte) (s : State) : (appendPending b s).pending = s.pending ++ [b] := rfl
@[simp] theorem appendPending_respq (b : Byte) (s : State) : (appendPending b s).respq = s.respq := rfl
@[simp] theorem appendPending_inputs (b : Byte) (s : State) : (appendPending b s).inputs = s.inputs := rfl
@[simp] theorem appendPending_params (b : Byte) (s : State) : (appendPending b s).params = s.params := rfl

@[simp] theorem clearPending_cfgValid (s : State) : (clearPending s).cfgValid = s.cfgValid := rfl
@[simp] theorem clearPending_poly (s : State) : (clearPending s).poly = s.poly := rfl
@[simp] theorem clearPending_init (s : State) : (clearPending s).init = s.init := rfl
@[simp] theorem clearPending_table (s : State) : (clearPending s).table = s.table := rfl
@[simp] theorem clearPending_pending (s : State) : (clearPending s).pending = [] := rfl
@[simp] theorem clearPending_respq (s : State) : (clearPending s).respq = s.respq := rfl
@[simp] theorem clearPending_inputs (s : State) : (clearPending s).inputs = s.inputs := rfl
@[simp] theorem clearPending_params (s : State) : (clearPending s).params = s.params := rfl

@[simp] theorem withInputs_cfgValid (es : List HostEvent) (s : State) : (withInputs es s).cfgValid = s.cfgValid := rfl
@[simp] theorem withInputs_poly (es : List HostEvent) (s : State) : (withInputs es s).poly = s.poly := rfl
@[simp] theorem withInputs_init (es : List HostEvent) (s : State) : (withInputs es s).init = s.init := rfl
@[simp] theorem withInputs_table (es : List HostEvent) (s : State) : (withInputs es s).table = s.table := rfl
@[simp] theorem withInputs_pending (es : List HostEvent) (s : State) : (withInputs es s).pending = s.pending := rfl
@[simp] theorem withInputs_respq (es : List HostEvent) (s : State) : (withInputs es s).respq = s.respq := rfl
@[simp] theorem withInputs_inputs (es : List HostEvent) (s : State) : (withInputs es s).inputs = es := rfl
@[simp] theorem withInputs_params (es : List HostEvent) (s : State) : (withInputs es s).params = s.params := rfl

@[simp] theorem takeResponse_cfgValid (s : State) : (takeResponse s).cfgValid = s.cfgValid := rfl
@[simp] theorem takeResponse_poly (s : State) : (takeResponse s).poly = s.poly := rfl
@[simp] theorem takeResponse_init (s : State) : (takeResponse s).init = s.init := rfl
@[simp] theorem takeResponse_table (s : State) : (takeResponse s).table = s.table := rfl
@[simp] theorem takeResponse_pending (s : State) : (takeResponse s).pending = s.pending := rfl
@[simp] theorem takeResponse_respq (s : State) : (takeResponse s).respq = s.respq.tail := rfl
@[simp] theorem takeResponse_inputs (s : State) : (takeResponse s).inputs = s.inputs := rfl
@[simp] theorem takeResponse_params (s : State) : (takeResponse s).params = s.params := rfl

@[simp] theorem resetEvent_cfgValid (s : State) : (resetEvent s).cfgValid = false := rfl
@[simp] theorem resetEvent_pending (s : State) : (resetEvent s).pending = [] := rfl
@[simp] theorem resetEvent_respq (s : State) : (resetEvent s).respq = [] := rfl
@[simp] theorem resetEvent_inputs (s : State) : (resetEvent s).inputs = s.inputs := rfl
@[simp] theorem resetEvent_params (s : State) : (resetEvent s).params = s.params := rfl

@[simp] theorem hostWrites_cfgValid (bs : List Byte) (s : State) : (hostWrites bs s).cfgValid = s.cfgValid := rfl
@[simp] theorem hostWrites_poly (bs : List Byte) (s : State) : (hostWrites bs s).poly = s.poly := rfl
@[simp] theorem hostWrites_init (bs : List Byte) (s : State) : (hostWrites bs s).init = s.init := rfl
@[simp] theorem hostWrites_table (bs : List Byte) (s : State) : (hostWrites bs s).table = s.table := rfl
@[simp] theorem hostWrites_pending (bs : List Byte) (s : State) : (hostWrites bs s).pending = s.pending := rfl
@[simp] theorem hostWrites_respq (bs : List Byte) (s : State) : (hostWrites bs s).respq = s.respq := rfl
@[simp] theorem hostWrites_inputs (bs : List Byte) (s : State) :
    (hostWrites bs s).inputs = s.inputs ++ bs.map HostEvent.write := rfl
@[simp] theorem hostWrites_params (bs : List Byte) (s : State) : (hostWrites bs s).params = s.params := rfl

@[simp] theorem retire_next (s : State) : retire (.next s) = .next (clearPending s) := rfl

end Sys2Proof.Machine
end

