-- ==== Sys2Proof/Laws/Exec.lean ====
section
/-! SUPPORT. Everything a command can do, said once: it appends one response, and only a successful CFG changes more. -/

namespace Sys2Proof.Machine

/-- A status is raised as a response of three bytes and nothing else (60_exceptions.md R103). -/
theorem raise_eq (st : Status) (s : State) : raise st s = .next (respond st [] s) := rfl

theorem response_nil (st : Status) : response st [] = [statusCode st, 0, 0] := by cases st <;> rfl

theorem execCfg_cases (d : List Byte) (s : State) :
    (∃ st ∈ [Status.lengthOutOfRange, .alreadyConfigured], execCfg d s = .next (respond st [] s)) ∨
      (s.cfgValid = false ∧ d.length = 4 ∧
        execCfg d s = .next (respond .ok [] (loadConfig (cfgPoly d) (cfgInit d) s))) := by
  unfold execCfg raise
  split
  · exact .inl ⟨_, by simp, rfl⟩
  · split
    · exact .inl ⟨_, by simp, rfl⟩
    · exact .inr ⟨by simpa using ‹¬ s.cfgValid = true›, by simpa using ‹¬ d.length ≠ 4›, rfl⟩

theorem execCrc_cases (d : List Byte) (s : State) :
    (s.cfgValid = false ∧ execCrc d s = .next (respond .notConfigured [] s)) ∨
      (s.cfgValid = true ∧ execCrc d s = .next (respond .ok (be16 (checksum d s)) s)) := by
  unfold execCrc raise
  split
  · exact .inl ⟨‹_›, rfl⟩
  · exact .inr ⟨by simpa using ‹¬ s.cfgValid = false›, by simp⟩

theorem execEnc_cases (d : List Byte) (s : State) :
    (∃ st ∈ [Status.lengthOutOfRange, .notConfigured], execEnc d s = .next (respond st [] s)) ∨
      (s.cfgValid = true ∧ d.length ≤ maxPayload s.params ∧
        execEnc d s = .next (respond .ok (wireFrame d (checksum d s)) s)) := by
  unfold execEnc raise
  split
  · exact .inl ⟨_, by simp, rfl⟩
  · split
    · exact .inl ⟨_, by simp, rfl⟩
    · exact .inr ⟨by simpa using ‹¬ s.cfgValid = false›, by omega, by simp⟩

theorem execDec_cases (d : List Byte) (s : State) :
    (∃ st ∈ [Status.lengthOutOfRange, .notConfigured, .frameTooShort, .invalidStart, .checksumMismatch],
        execDec d s = .next (respond st [] s)) ∨
      (s.cfgValid = true ∧ d.length ≤ s.params.maxFrame ∧ 4 ≤ d.length ∧
        execDec d s = .next (respond .ok (frameCandidate d) s)) := by
  unfold execDec raise
  split
  · exact .inl ⟨_, by simp, rfl⟩
  · split
    · exact .inl ⟨_, by simp, rfl⟩
    · split
      · exact .inl ⟨_, by simp, rfl⟩
      · split
        · exact .inl ⟨_, by simp, rfl⟩
        · split
          · exact .inl ⟨_, by simp, rfl⟩
          · exact .inr ⟨by simpa using ‹¬ s.cfgValid = false›, by omega,
              by simpa [Config.minFrame] using ‹¬ d.length < Config.minFrame›, rfl⟩

/-- Every command answers a next state: one response on the state before it, or on that state with the configuration
loaded. -/
theorem exec_cases (i : Instr) (s : State) :
    ∃ st d s', exec i s = .next (respond st d s') ∧
      (s' = s ∨ (s.cfgValid = false ∧ st = .ok ∧ d = [] ∧ ∃ p n, s' = loadConfig p n s)) := by
  cases i with
  | cfg d =>
    rcases execCfg_cases d s with ⟨st, _, h⟩ | ⟨hv, _, h⟩
    · exact ⟨_, _, _, h, .inl rfl⟩
    · exact ⟨_, _, _, h, .inr ⟨hv, rfl, rfl, _, _, rfl⟩⟩
  | enc d =>
    rcases execEnc_cases d s with ⟨st, _, h⟩ | ⟨_, _, h⟩ <;> exact ⟨_, _, _, h, .inl rfl⟩
  | dec d =>
    rcases execDec_cases d s with ⟨st, _, h⟩ | ⟨_, _, _, h⟩ <;> exact ⟨_, _, _, h, .inl rfl⟩
  | crc d =>
    rcases execCrc_cases d s with ⟨_, h⟩ | ⟨_, h⟩ <;> exact ⟨_, _, _, h, .inl rfl⟩

end Sys2Proof.Machine
end

