-- ==== Sys2Proof/Laws/PerInstr.lean ====
section
/-! SUPPORT. The per-instruction families of LAWS.json: EncodeLength, a command of `LEN` data bytes takes `3 + LEN` bytes
(spec/30_encoding.md R45, R48). -/

namespace Sys2Proof.Laws.EncodeLength

/-- "every command, legal or not, consumes exactly `3 + LEN` bytes" (30_encoding.md R48), of the encoder's output. -/
def Statement (i : Instr) : Prop := (encode i).length = 3 + i.data.length

theorem of_data (i : Instr) : Statement i := by
  simp [Statement, encode, header]; omega

theorem cfg (data : List Byte) : Statement (.cfg data) := of_data _

theorem enc (data : List Byte) : Statement (.enc data) := of_data _

theorem dec (data : List Byte) : Statement (.dec data) := of_data _

theorem crc (data : List Byte) : Statement (.crc data) := of_data _

end Sys2Proof.Laws.EncodeLength
end

