-- ==== Sys2Proof/Laws/Stream.lean ====
section
/-! SUPPORT. Everything a step can do, said once, by the host's act it takes. -/

namespace Sys2Proof.Machine

theorem step_idle {s : State} (h : s.inputs = []) : step s = .next s := by simp [step, takeEvent, h]

theorem step_write {s : State} {b : Byte} {es : List HostEvent} (h : s.inputs = .write b :: es) :
    step s = takeByte b (withInputs es s) := by simp [step, takeEvent, h]

theorem step_take {s : State} {es : List HostEvent} (h : s.inputs = .take :: es) :
    step s = .next (takeResponse (withInputs es s)) := by simp [step, takeEvent, h]

theorem step_reset {s : State} {es : List HostEvent} (h : s.inputs = .reset :: es) :
    step s = .next (resetEvent (withInputs es s)) := by simp [step, takeEvent, h]

/-- Running the bytes of a command: nothing, one response, or a loaded configuration and one response. -/
theorem execute_cases (cmd : List Byte) (s : State) :
    execute cmd s = .next s ∨ ∃ st d s', execute cmd s = .next (respond st d s') ∧
      (s' = s ∨ (s.cfgValid = false ∧ st = .ok ∧ d = [] ∧ ∃ p n, s' = loadConfig p n s)) := by
  unfold execute
  split
  · exact .inr (exec_cases _ _)
  · exact .inr ⟨_, _, s, rfl, .inl rfl⟩
  · exact .inl rfl

/-- Taking a byte: it joins `PENDING`, or the command it completes runs and `PENDING` is cleared. -/
theorem takeByte_cases (b : Byte) (s : State) :
    (isComplete (s.pending ++ [b]) = false ∧ takeByte b s = .next (appendPending b s)) ∨
      (isComplete (s.pending ++ [b]) = true ∧
        takeByte b s = retire (execute (s.pending ++ [b]) (appendPending b s))) := by
  unfold takeByte
  by_cases h : isComplete (s.pending ++ [b]) <;> simp [h]

theorem run_succ {s t : State} (n : Nat) (h : step s = .next t) : run (n + 1) s = run n t := by
  simp [run, h]

/-- A run is the host's run of the core. -/
theorem run_eq_core_run (n : Nat) (s : State) : run n s = Sys2Proof.core.run n s := by
  induction n generalizing s with
  | zero => rfl
  | succ n ih =>
    cases h : step s with
    | next t =>
      have h' : Sys2Proof.core.step s = .next t := h
      simp only [run, Host.Core.run, h, h']
      exact ih t
    | fault r => exact nomatch r
    | refused r =>
      have h' : Sys2Proof.core.step s = .refused r := h
      simp only [run, Host.Core.run, h, h']
      rfl

end Sys2Proof.Machine
end

