-- ==== Sys2Proof/Tests/Slice0.lean ====
section
/-! SUPPORT. Small tests of the model, each with the place of spec/ its expected result comes from, and for each obligation with
hypotheses a witness that meets them all, at a boundary of each clause's range. -/

namespace Sys2Proof.Tests

open Sys2Proof.Machine

/-- The response stream of the next state. -/
def respqOf : Host.Outcome State Fault Refusal → Option (List Byte)
  | .next s => some s.respq
  | .fault _ => none
  | .refused _ => none

/-- A view of the next state: configuration and `PENDING`. -/
def viewOf : Host.Outcome State Fault Refusal → Option (Bool × Word × Word × List Byte)
  | .next s => some (s.cfgValid, s.poly, s.init, s.pending)
  | .fault _ => none
  | .refused _ => none

/-- An unconfigured block with `MAX_FRAME = m`. -/
def fresh (m : Nat) : State := State.resetWith ⟨m⟩

/-- A configured block with `MAX_FRAME = m`. -/
def ready (m : Nat) (poly init : Word) : State := loadConfig poly init (fresh m)

/-! ## WellFormed: an ill-formed term for each check, which the check refuses (30_encoding.md R46) -/

theorem wf_replicate (n : Nat) :
    Instr.wf (.cfg (List.replicate n 0)) = decide (n ≤ 65535) ∧ Instr.wf (.enc (List.replicate n 0)) = decide (n ≤ 65535) ∧
      Instr.wf (.dec (List.replicate n 0)) = decide (n ≤ 65535) ∧ Instr.wf (.crc (List.replicate n 0)) = decide (n ≤ 65535) := by
  simp [Instr.wf, lenFits]

theorem test_wf_cfg_refuses_long : Instr.wf (.cfg (List.replicate 65536 0)) = false := (wf_replicate 65536).1

theorem test_wf_enc_refuses_long : Instr.wf (.enc (List.replicate 65536 0)) = false := (wf_replicate 65536).2.1

theorem test_wf_dec_refuses_long : Instr.wf (.dec (List.replicate 65536 0)) = false := (wf_replicate 65536).2.2.1

theorem test_wf_crc_refuses_long : Instr.wf (.crc (List.replicate 65536 0)) = false := (wf_replicate 65536).2.2.2

theorem test_wf_accepts_longest : Instr.wf (.crc (List.replicate 65535 0)) = true := (wf_replicate 65535).2.2.2

/-! ## Decode: words written out bit by bit from 30_encoding.md R45, R51, R54 and R61 -/

theorem test_decode_cfg :
    decode [0b00000001, 0b00000000, 0b00000100, 0b00010000, 0b00100001, 0b11111111, 0b11111111] =
      .command (.cfg [0x10, 0x21, 0xFF, 0xFF]) [] := by decide

theorem test_decode_enc :
    decode [0b00000010, 0b00000000, 0b00000010, 0b01000001, 0b01000010, 0b01000011] =
      .command (.enc [0x41, 0x42]) [0x43] := by decide

theorem test_decode_dec :
    decode [0b00000011, 0b00000000, 0b00000100, 0b01111110, 0b01000001, 0b10111001, 0b00010101] =
      .command (.dec [0x7E, 0x41, 0xB9, 0x15]) [] := by decide

theorem test_decode_crc : decode [0b00000100, 0b00000000, 0b00000001, 0b01000001] = .command (.crc [0x41]) [] := by decide

/-- R52: opcodes next to the four are illegal, `0x00` and `0x05` among them. -/
theorem test_decode_illegal :
    decode [0b00000000, 0b00000000, 0b00000001, 0b01010101] = .illegalOpcode 0x00 [0x55] [] ∧
      decode [0b00000101, 0b00000000, 0b00000000] = .illegalOpcode 0x05 [] [] := by decide

/-- R34, R47: `LEN` is big-endian, so `01 00` asks for 256 bytes. -/
theorem test_decode_len_is_big_endian : decode [0x04, 0x01, 0x00, 0x41] = .incomplete := by decide

/-- R61, first row. -/
theorem test_encode_cfg : encode (.cfg [0x10, 0x21, 0xFF, 0xFF]) = [0x01, 0x00, 0x04, 0x10, 0x21, 0xFF, 0xFF] := by decide

/-- R61, second row. -/
theorem test_encode_enc :
    encode (.enc [0x48, 0x65, 0x6C, 0x6C, 0x6F]) = [0x02, 0x00, 0x05, 0x48, 0x65, 0x6C, 0x6C, 0x6F] := by decide

/-- The match words of opcode_table.json, with `LEN` bits set where a row has operand bytes. -/
theorem test_table_words :
    decodeTableWord 24 0x010004 = some (.cfg [0, 0, 0, 0]) ∧ decodeTableWord 24 0x020001 = some (.enc [0]) ∧
      decodeTableWord 24 0x030000 = some (.dec []) ∧ decodeTableWord 24 0x040000 = some (.crc []) ∧
      decodeTableWord 24 0x000000 = none := by decide

/-- The step after withFetchWord runs the word's command as the first after reset (R101: NOT_CONFIGURED, and CFG is OK). -/
theorem test_fetch_word :
    respqOf (step (State.reset.withFetchWord 24 0x010004)) = some [0x00, 0x00, 0x00] ∧
      respqOf (step (State.reset.withFetchWord 24 0x020001)) = some [0x10, 0x00, 0x00] ∧
      respqOf (step (State.reset.withFetchWord 24 0x030000)) = some [0x10, 0x00, 0x00] ∧
      respqOf (step (State.reset.withFetchWord 24 0x040000)) = some [0x10, 0x00, 0x00] := by decide +kernel

/-! ## The CRC function (95_test_vectors.md section 3) -/

/-- CRC-1. -/
theorem test_crc_check_value :
    crc16 [0x31, 0x32, 0x33, 0x34, 0x35, 0x36, 0x37, 0x38, 0x39] 0x1021 0xFFFF = 0x29B1 := by decide +kernel

/-- CRC-21: a second polynomial. -/
theorem test_crc_other_polynomial : crc16 [0x01, 0x02, 0x03] 0x8005 0xFFFF = 0x821D := by decide +kernel

/-- The register trace of CRC-10: eight shifts from B7FF give 283C. -/
theorem test_crc_shifts_trace : crcShifts 0x1021 2 0xB7FF = 0xFFBE ∧ crcShifts 0x1021 8 0xB7FF = 0x283C := by decide +kernel

/-- The table entries of section 3, read from a built table. -/
theorem test_table_entries :
    (buildTable 0x1021).get 0x80 = 0x9188 ∧ (buildTable 0x8005).get 0x03 = 0x000A := by decide +kernel

/-- CRC-11 through the table. -/
theorem test_crc_by_table : crc16ByTable [0x41] (buildTable 0x1021) 0xFFFF = 0xB915 := by decide +kernel

/-! ## Commands (95_test_vectors.md sections 4 to 9) -/

/-- CFG-1, with its last byte taken from `CMDIN`. -/
theorem test_cfg_loads :
    viewOf (step { fresh 1024 with pending := [0x01, 0x00, 0x04, 0x10, 0x21, 0xFF], inputs := [.write 0xFF] }) =
      some (true, 0x1021, 0xFFFF, []) := by decide +kernel

/-- CFG-5: the length ranks before the configuration. -/
theorem test_cfg_length_ranks_first :
    respqOf (execCfg [0x01, 0x02, 0x03] (ready 1024 0x1021 0xFFFF)) = some [0x13, 0x00, 0x00] := by decide +kernel

/-- ENC-12, second half: with `MAX_FRAME = 4`, two bytes are too many. -/
theorem test_enc_too_long : respqOf (execEnc [0x41, 0x42] (ready 4 0x1021 0xFFFF)) = some [0x13, 0x00, 0x00] := by decide +kernel

/-- ENC-12, first half: a frame of exactly `MAX_FRAME` bytes. -/
theorem test_enc_max_frame : respqOf (execEnc [0x41] (ready 4 0x1021 0xFFFF)) = some [0x00, 0x00, 0x04, 0x7E, 0x41, 0xB9, 0x15] := by
  decide +kernel

/-- DEC-16, first half: the smallest frame that decodes. -/
theorem test_dec_smallest : respqOf (execDec [0x7E, 0x41, 0xB9, 0x15] (ready 4 0x1021 0xFFFF)) = some [0x00, 0x00, 0x01, 0x41] := by
  decide +kernel

/-- HAZ-8: a padded frame is accepted with the wrong payload. -/
theorem test_dec_padded_hello :
    respqOf (execDec [0x7E, 0x48, 0x65, 0x6C, 0x6C, 0x6F, 0xDA, 0xDA, 0x00] (ready 1024 0x1021 0xFFFF)) =
      some [0x00, 0x00, 0x06, 0x48, 0x65, 0x6C, 0x6C, 0x6F, 0xDA] := by decide +kernel

/-- DEC-13: NOT_CONFIGURED ranks before FRAME_TOO_SHORT. -/
theorem test_dec_unconfigured : respqOf (execDec [0x7E, 0x00] (fresh 1024)) = some [0x10, 0x00, 0x00] := by decide +kernel

/-- CRCC-5: the high byte first. -/
theorem test_crc_command : respqOf (execCrc [0x41] (ready 1024 0x1021 0xFFFF)) = some [0x00, 0x00, 0x02, 0xB9, 0x15] := by
  decide +kernel

/-- CRCC-7, first part: the CRC of nothing is `INIT`. -/
theorem test_crc_command_empty : respqOf (execCrc [] (ready 1024 0x0000 0xABCD)) = some [0x00, 0x00, 0x02, 0xAB, 0xCD] := by
  decide +kernel

/-- Program P5: after the reset during a command, the CRC command answers NOT_CONFIGURED. -/
theorem test_reset_during_command :
    respqOf (run 5 { ready 1024 0x1021 0xFFFF with
      pending := [0x04, 0x00, 0x01]
      inputs := [.reset, .write 0x04, .write 0x00, .write 0x01, .write 0x41] }) = some [0x10, 0x00, 0x00] := by decide +kernel

/-! ## Witnesses: states and operands that meet an obligation's hypotheses -/

theorem complete_of_length {opc hi lo : Byte} {data : List Byte} (h : data.length = be16Nat hi lo) :
    CompleteCommand (opc :: hi :: lo :: data) := ⟨opc, hi, lo, data, rfl, h⟩

theorem not_complete_of_short {bs : List Byte} (h : bs.length < 3) : ¬ CompleteCommand bs := by
  rintro ⟨_, _, _, _, rfl, _⟩; simp only [List.length_cons] at h; omega

/-- DecodeInvertsEncode: the longest and the shortest data sections. -/
theorem witness_DecodeInvertsEncode :
    (Instr.crc (List.replicate 65535 0)).wf = true ∧ (Instr.cfg []).wf = true := ⟨test_wf_accepts_longest, rfl⟩

/-- EncodeInvertsDecode. -/
theorem witness_EncodeInvertsDecode : decode [0x02, 0x00, 0x00, 0x7E] = .command (.enc []) [0x7E] := by decide

/-- OpcodeSelectsCommand: the first clause to the last at `LEN = 1`, with the illegal opcodes next to the legal ones. -/
theorem witness_OpcodeSelectsCommand :
    ([0x55] : List Byte).length = be16Nat 0x00 0x01 ∧ ([] : List Byte).length = be16Nat 0x00 0x00 ∧
      (∀ opc ∈ [0x00, 0x05, 0xFF], (opc : Byte) ≠ 0x01 ∧ opc ≠ 0x02 ∧ opc ≠ 0x03 ∧ opc ≠ 0x04) := by decide

/-- StreamSplitsInOneWay: a split of an illegal command and a partial one (program P5). -/
theorem witness_StreamSplitsInOneWay : Splits [0x00, 0x00, 0x01, 0x55, 0x43] ([[0x00, 0x00, 0x01, 0x55]], [0x43]) :=
  ⟨fun c hc => by rw [List.mem_singleton.1 hc]; exact complete_of_length (by decide), .inl (by decide), rfl⟩

/-- StepRunsDecodedCommand: the last byte of a CRC command of `LEN = 0`. -/
theorem witness_StepRunsDecodedCommand :
    CompleteCommand ([0x04, 0x00] ++ [0x00]) ∧ decode ([0x04, 0x00] ++ [0x00]) = .command (.crc []) [] :=
  ⟨complete_of_length (data := []) (by decide), by decide⟩

/-- StepHoldsPartialCommand: the second byte of a command. -/
theorem witness_StepHoldsPartialCommand : ¬ CompleteCommand ([0x04] ++ [0x00]) := not_complete_of_short (by decide)

/-- CommandConsumesItsBytes, with `k` at both ends of its range. -/
theorem witness_CommandConsumesItsBytes :
    ([0x41] : List Byte).length = be16Nat 0x00 0x01 ∧ (fresh 4).pending = [] ∧
      (hostWrites [0x04, 0x00, 0x01, 0x41] (fresh 4)).inputs = [0x04, 0x00, 0x01, 0x41].map HostEvent.write ++ [] ∧
      0 < 3 + be16Nat 0x00 0x01 ∧ 3 < 3 + be16Nat 0x00 0x01 := by decide

/-- CommandRunsAtItsLastByte. -/
theorem witness_CommandRunsAtItsLastByte :
    (Instr.enc [0x41]).wf = true ∧ (fresh 4).pending = [] ∧
      (hostWrites (encode (.enc [0x41])) (fresh 4)).inputs = (encode (.enc [0x41])).map HostEvent.write ++ [] := by decide

/-- IllegalCommandAnswers: the illegal opcodes next to the legal ones. -/
theorem witness_IllegalCommandAnswers :
    ((0x00 : Byte) = 0x00 ∨ 0x05 ≤ (0x00 : Byte).toNat) ∧ ((0x05 : Byte) = 0x00 ∨ 0x05 ≤ (0x05 : Byte).toNat) ∧
      ((0xFF : Byte) = 0x00 ∨ 0x05 ≤ (0xFF : Byte).toNat) ∧ ([0x55] : List Byte).length = be16Nat 0x00 0x01 ∧
      (hostWrites [0x05, 0x00, 0x01, 0x55] (fresh 4)).inputs = [0x05, 0x00, 0x01, 0x55].map HostEvent.write ++ [] ∧
      (hostWrites [0x05, 0x00, 0x01, 0x55] (fresh 4)).pending = [] := by decide

/-- IdleKeepsState. -/
theorem witness_IdleKeepsState : State.reset.inputs = [] := rfl

/-- TakeRemovesOldestByte: the last byte of the stream. -/
theorem witness_TakeRemovesOldestByte :
    (withInputs [.take] (answered (fresh 4) [0x12])).inputs = .take :: [] ∧
      (withInputs [.take] (answered (fresh 4) [0x12])).respq = 0x12 :: [] := by decide

/-- ResetDropsPendingAndResponses, with a byte after the reset. -/
theorem witness_ResetDropsPendingAndResponses :
    (withInputs [.reset, .write 0x04] (appendPending 0x01 (fresh 4))).inputs = .reset :: [.write 0x04] := rfl

/-- ResetMeetsInv: both ends of the legal range. -/
theorem witness_ResetMeetsInv : Params.Legal ⟨4⟩ ∧ Params.Legal ⟨65535⟩ ∧ Params.Legal Params.default := by decide

/-- A configured state, with a partial command and a response whose first byte the host has taken, meets the invariants. -/
theorem ready_inv : Inv { ready 4 0x1021 0xFFFF with pending := [0x04, 0x00, 0x01], respq := [0x00, 0x00] } where
  params := by decide
  table := fun _ i => buildTable_get 0x1021 i
  pending := .inr ⟨0x04, 0x00, 0x01, [], rfl, by decide⟩
  respq := ⟨[0x10], [[0x10, 0x00, 0x00]], fun r hr => .inr ⟨0x10, by decide, by simpa using hr⟩, rfl, by simp⟩

/-- StepKeepsInv: the step that takes a byte of such a state. -/
theorem witness_StepKeepsInv :
    ∃ s t, Inv s ∧ s.inputs = [.take] ∧ s.cfgValid = true ∧ step s = .next t :=
  ⟨withInputs [.take] { ready 4 0x1021 0xFFFF with pending := [0x04, 0x00, 0x01], respq := [0x00, 0x00] }, _,
    ⟨ready_inv.params, ready_inv.table, ready_inv.pending, ready_inv.respq⟩, rfl, rfl, step_take rfl⟩

/-- ConfigurationIsImmutable: a run of a step with no reset in it, and a second CFG. -/
theorem witness_ConfigurationIsImmutable :
    (ready 4 0x1021 0xFFFF).cfgValid = true ∧ HostEvent.reset ∉ (ready 4 0x1021 0xFFFF).inputs.take 1 ∧
      run 1 (ready 4 0x1021 0xFFFF) = .next (ready 4 0x1021 0xFFFF) ∧ ([0x80, 0x05, 0x00, 0x00] : List Byte).length = 4 :=
  ⟨rfl, by decide, rfl, rfl⟩

/-- OnlyResetClearsConfiguration: a run that does clear it. -/
theorem witness_OnlyResetClearsConfiguration :
    ∃ t, run 1 (withInputs [.reset] (ready 4 0x1021 0xFFFF)) = .next t ∧
      (withInputs [.reset] (ready 4 0x1021 0xFFFF)).cfgValid = true ∧ t.cfgValid = false := ⟨_, rfl, rfl, rfl⟩

/-- UnloadedRegistersAreUnobservable: two states that differ in all three. -/
theorem witness_UnloadedRegistersAreUnobservable :
    SameButUnloaded (fresh 4) { ready 4 0x1021 0xFFFF with cfgValid := false } :=
  ⟨rfl, rfl, rfl, rfl, rfl, fun h => nomatch h⟩

/-- CrcIsLinear. -/
theorem witness_CrcIsLinear : ([0x41] : List Byte).length = ([0x7E] : List Byte).length := rfl

/-- ZeroPolynomialIgnoresPayload: each length clause at its boundary, and an unconfigured block. -/
theorem witness_ZeroPolynomialIgnoresPayload :
    ([] : List Byte).length = 0 ∧ ([0x12] : List Byte).length = 1 ∧ 2 ≤ ([0x12, 0x34] : List Byte).length ∧
      (fresh 4).cfgValid = false := by decide

/-- SingleBitErrorChangesCrc: the last bit of the last byte, for a nonzero polynomial and for two bytes. -/
theorem witness_SingleBitErrorChangesCrc :
    0 < ([0x41] : List Byte).length ∧ 1 < ([0x41, 0x42] : List Byte).length ∧ 7 < 8 ∧ (0x8000 : Word) ≠ 0x0000 ∧
      2 ≤ ([0x41, 0x42] : List Byte).length := by decide

/-- CfgLoadsConfiguration. -/
theorem witness_CfgLoadsConfiguration : (fresh 4).cfgValid = false := rfl

/-- UnconfiguredCommandsAreRefused: an unconfigured block, and a `LEN` at the end of each range. -/
theorem witness_UnconfiguredCommandsAreRefused :
    (fresh 4).cfgValid = false ∧ ([0x41] : List Byte).length ≤ (fresh 4).params.maxFrame - 3 ∧
      ([0x7E, 0x41, 0xB9, 0x15] : List Byte).length ≤ (fresh 4).params.maxFrame := by decide

/-- CfgRefusals: the lengths next to 4, and a configured block. -/
theorem witness_CfgRefusals :
    ([1, 2, 3] : List Byte).length ≠ 4 ∧ ([1, 2, 3, 4, 5] : List Byte).length ≠ 4 ∧ ([1, 2, 3, 4] : List Byte).length = 4 ∧
      (ready 4 0x1021 0xFFFF).cfgValid = true := ⟨by decide, by decide, rfl, rfl⟩

/-- CrcAnswersChecksum. -/
theorem witness_CrcAnswersChecksum : (ready 4 0x1021 0xFFFF).cfgValid = true := rfl

/-- CrcAnswerIsTheTableDrivenOne. -/
theorem witness_CrcAnswerIsTheTableDrivenOne : (ready 4 0x1021 0xFFFF).cfgValid = true ∧ TableCoherent (ready 4 0x1021 0xFFFF) :=
  ⟨rfl, fun _ i => buildTable_get 0x1021 i⟩

/-- EncAnswersFrame: payloads at both ends of the range, of a block with the smallest `MAX_FRAME`. -/
theorem witness_EncAnswersFrame :
    (ready 4 0x1021 0xFFFF).params.Legal ∧ (ready 4 0x1021 0xFFFF).cfgValid = true ∧
      ([] : List Byte).length ≤ (ready 4 0x1021 0xFFFF).params.maxFrame - 3 ∧
      ([0x41] : List Byte).length ≤ (ready 4 0x1021 0xFFFF).params.maxFrame - 3 := ⟨by decide, rfl, by decide, by decide⟩

/-- RoundTrip: a later state of the same configuration, and payloads of no byte, one byte and `MAX_PAYLOAD` bytes. -/
theorem witness_RoundTrip :
    (ready 4 0x1021 0xFFFF).params.Legal ∧ (answered (ready 4 0x1021 0xFFFF) [0x00]).cfgValid = true ∧
      (answered (ready 4 0x1021 0xFFFF) [0x00]).poly = (ready 4 0x1021 0xFFFF).poly ∧
      (answered (ready 4 0x1021 0xFFFF) [0x00]).init = (ready 4 0x1021 0xFFFF).init ∧
      (answered (ready 4 0x1021 0xFFFF) [0x00]).params = (ready 4 0x1021 0xFFFF).params ∧
      ([] : List Byte).length = 0 ∧ 1 ≤ ([0x41] : List Byte).length ∧
      ([0x41] : List Byte).length ≤ (ready 4 0x1021 0xFFFF).params.maxFrame - 3 :=
  ⟨by decide, rfl, rfl, rfl, rfl, rfl, by decide, by decide⟩

/-- EncBoundsPayload, first clause: one byte too many. -/
theorem witness_EncBoundsPayload_long :
    (ready 4 0x1021 0xFFFF).params.Legal ∧ (ready 4 0x1021 0xFFFF).params.maxFrame - 3 < ([0x41, 0x42] : List Byte).length := by
  decide

/-- EncBoundsPayload, second clause: an ENC that produces a frame of exactly `MAX_FRAME` bytes (ENC-12). -/
theorem witness_EncBoundsPayload_frame :
    exec (.enc [0x41]) (ready 4 0x1021 0xFFFF) =
      .next (answered (ready 4 0x1021 0xFFFF) ([0x00] ++ lenBytes 4 ++ [0x7E, 0x41, 0xB9, 0x15])) := by
  rcases execEnc_cases [0x41] (ready 4 0x1021 0xFFFF) with ⟨st, hst, h⟩ | ⟨_, _, h⟩
  · have hr := congrArg respqOf h
    rw [test_enc_max_frame] at hr
    simp [respqOf, response_nil, show (ready 4 0x1021#16 0xFFFF#16).respq = [] from rfl] at hr
  · have hr := congrArg respqOf h
    rw [test_enc_max_frame] at hr
    simp only [respqOf, respond_respq, Option.some.injEq] at hr
    rw [show exec (.enc [0x41]) (ready 4 0x1021 0xFFFF) = execEnc [0x41] (ready 4 0x1021 0xFFFF) from rfl, h]
    simp only [respond, answered, ← hr]
    rfl

/-- DecAnswersPayload: the smallest frame that decodes, of a block that takes no longer one (DEC-16). -/
theorem witness_DecAnswersPayload :
    (ready 4 0x1021 0xFFFF).cfgValid = true ∧ 1 ≤ ([0x41] : List Byte).length ∧
      ([0x41] : List Byte).length + 3 ≤ (ready 4 0x1021 0xFFFF).params.maxFrame ∧
      crc16 [0x41] (ready 4 0x1021 0xFFFF).poly (ready 4 0x1021 0xFFFF).init = BitVec.ofNat 16 (be16Nat 0xB9 0x15) := by
  decide +kernel

/-- DecChecksInOrder: three bytes, a wrong marker and a wrong checksum (DEC-4, DEC-6, DEC-7). -/
theorem witness_DecChecksInOrder :
    (ready 4 0x1021 0xFFFF).params.Legal ∧ ([0x7E, 0xFF, 0xFF] : List Byte).length < 4 ∧ (0x7F : Byte) ≠ 0x7E ∧
      ([0x41] : List Byte).length + 3 ≤ (ready 4 0x1021 0xFFFF).params.maxFrame ∧
      crc16 [0x41] (ready 4 0x1021 0xFFFF).poly (ready 4 0x1021 0xFFFF).init ≠ BitVec.ofNat 16 (be16Nat 0xB9 0x14) := by
  decide +kernel

/-- DecBoundsFrame, first clause: one byte too many (DEC-16). -/
theorem witness_DecBoundsFrame_long :
    (ready 4 0x1021 0xFFFF).params.Legal ∧
      (ready 4 0x1021 0xFFFF).params.maxFrame < ([0x7E, 0x41, 0xB9, 0x15, 0x00] : List Byte).length := by decide

/-- DecBoundsFrame, second clause: a DEC that returns `MAX_FRAME - 3` bytes (DEC-16). -/
theorem witness_DecBoundsFrame_payload :
    exec (.dec [0x7E, 0x41, 0xB9, 0x15]) (ready 4 0x1021 0xFFFF) =
      .next (answered (ready 4 0x1021 0xFFFF) ([0x00] ++ lenBytes 1 ++ [0x41])) := by
  rcases execDec_cases [0x7E, 0x41, 0xB9, 0x15] (ready 4 0x1021 0xFFFF) with ⟨st, hst, h⟩ | ⟨_, _, _, h⟩
  · have hr := congrArg respqOf h
    rw [test_dec_smallest] at hr
    simp [respqOf, response_nil, show (ready 4 0x1021#16 0xFFFF#16).respq = [] from rfl] at hr
  · exact h

/-- StatusIsFirstRankedCause: a data section of `LEN = 0` and one of `LEN = 1`. -/
theorem witness_StatusIsFirstRankedCause :
    ([] : List Byte).length = be16Nat 0x00 0x00 ∧ ([0x41] : List Byte).length = be16Nat 0x00 0x01 := by decide

/-- The ranks of 60_exceptions.md R102 where two causes meet: rank 2 before 3, rank 3 before 4, rank 5 before 6. -/
theorem test_ranked_status :
    rankedStatus 0x03 [0x7E, 0x41, 0xB9, 0x15, 0x00] (fresh 4) = 0x13 ∧ rankedStatus 0x03 [0x7E, 0x00] (fresh 4) = 0x10 ∧
      rankedStatus 0x03 [0x00, 0x00, 0x00, 0x00] (ready 4 0x1021 0xFFFF) = 0x02 := by decide +kernel

/-- EveryCommandAnswersOnce, with the largest legal `MAX_FRAME`. -/
theorem witness_EveryCommandAnswersOnce :
    CompleteCommand [0x03, 0x00, 0x01, 0x41] ∧ (fresh 65535).params.Legal :=
  ⟨complete_of_length (data := [0x41]) (by decide), by decide⟩

/-- ErrorsArePrecise and CommandFrames: each command answers a next state. -/
theorem witness_CommandFrames :
    (∃ t, exec (.cfg []) (fresh 4) = .next t) ∧ (∃ t, exec (.crc []) (ready 4 0x1021 0xFFFF) = .next t) ∧
      (∃ t, exec (.enc [0x41]) (ready 4 0x1021 0xFFFF) = .next t) ∧
      ∃ t, exec (.dec [0x7E, 0x41, 0xB9, 0x15]) (ready 4 0x1021 0xFFFF) = .next t :=
  ⟨⟨_, rfl⟩, ⟨_, rfl⟩, ⟨_, witness_EncBoundsPayload_frame⟩, ⟨_, witness_DecBoundsFrame_payload⟩⟩

/-- ErrorsArePrecise: a command that answers another status than OK, and one that answers OK. -/
theorem witness_ErrorsArePrecise :
    exec (.crc []) (fresh 4) = .next (answered (fresh 4) [0x10, 0x00, 0x00]) ∧
      exec (.crc []) (ready 4 0x1021 0xFFFF) =
        .next (answered (ready 4 0x1021 0xFFFF) [0x00, 0x00, 0x02, 0xFF, 0xFF]) :=
  ⟨rfl, rfl⟩

/-- ResponsesArePure: two states of one configuration that differ in their streams. -/
theorem witness_ResponsesArePure :
    (∀ data, Instr.crc [] ≠ .cfg data) ∧ (ready 4 0x1021 0xFFFF).cfgValid = true ∧
      (answered (ready 4 0x1021 0xFFFF) [0x00]).cfgValid = true ∧
      (ready 4 0x1021 0xFFFF).poly = (answered (ready 4 0x1021 0xFFFF) [0x00]).poly ∧
      (ready 4 0x1021 0xFFFF).init = (answered (ready 4 0x1021 0xFFFF) [0x00]).init ∧
      (ready 4 0x1021 0xFFFF).params = (answered (ready 4 0x1021 0xFFFF) [0x00]).params :=
  ⟨fun _ => by simp, rfl, rfl, rfl, rfl, rfl⟩

/-- TamperDetection: `j` at both ends of each clause's range, for a payload of one byte, and both kinds of polynomial. -/
theorem witness_TamperDetection :
    (ready 4 0x1021 0xFFFF).params.Legal ∧ 1 ≤ ([0x41] : List Byte).length ∧ ([0x41] : List Byte).length ≤ 4 - 3 ∧
      (∀ j ∈ [0, 1, 2, 3], j < ([0x41] : List Byte).length + 3) ∧ 7 < 8 ∧
      (ready 4 0x1021 0xFFFF).poly ≠ 0x0000 ∧ (ready 4 0x0000 0xFFFF).poly = 0x0000 := by decide

/-- ConcatenatedFrames: two empty payloads in six bytes. With `POLY = 0x0000` and `INIT = 0x0000` the accepting clause applies. -/
theorem witness_ConcatenatedFrames_accepted :
    (ready 6 0x0000 0x0000).cfgValid = true ∧
      ([] : List Byte).length + ([] : List Byte).length + 6 ≤ (ready 6 0x0000 0x0000).params.maxFrame ∧
      crc16 ([0x7E] ++ []) (ready 6 0x0000 0x0000).poly 0x0000 =
        crc16 [] (ready 6 0x0000 0x0000).poly (ready 6 0x0000 0x0000).init := by decide +kernel

/-- ConcatenatedFrames: the refusing clause, for the two frames of vector HAZ-1. -/
theorem witness_ConcatenatedFrames_refused :
    (ready 8 0x1021 0xFFFF).cfgValid = true ∧
      ([0x41] : List Byte).length + ([0x41] : List Byte).length + 6 ≤ (ready 8 0x1021 0xFFFF).params.maxFrame ∧
      crc16 ([0x7E] ++ [0x41]) (ready 8 0x1021 0xFFFF).poly 0x0000 ≠
        crc16 [0x41] (ready 8 0x1021 0xFFFF).poly (ready 8 0x1021 0xFFFF).init := by decide +kernel

/-- PaddedFrameIsAccepted: the frame of an empty payload, padded to the smallest `MAX_FRAME`. -/
theorem witness_PaddedFrameIsAccepted :
    (ready 4 0x1021 0xFFFF).cfgValid = true ∧
      ([] : List Byte).length + 4 ≤ (ready 4 0x1021 0xFFFF).params.maxFrame := ⟨rfl, by decide⟩

end Sys2Proof.Tests
end

/-! ## The configuration is immutable once loaded (10_state.md R22) -/

namespace Sys2Proof.Machine

/-- The configuration of 10_state.md R18 to R21 stands in `t` as it was in `s`. -/
structure SameConfiguration (s t : State) : Prop where
  cfgValid : t.cfgValid = s.cfgValid
  poly : t.poly = s.poly
  init : t.init = s.init
  table : t.table = s.table

theorem SameConfiguration.refl (s : State) : SameConfiguration s s := ⟨rfl, rfl, rfl, rfl⟩

theorem SameConfiguration.trans {s t u : State} (hst : SameConfiguration s t) (htu : SameConfiguration t u) :
    SameConfiguration s u where
  cfgValid := htu.cfgValid.trans hst.cfgValid
  poly := htu.poly.trans hst.poly
  init := htu.init.trans hst.init
  table := htu.table.trans hst.table

/-- While configured, a command's bytes add at most one response: the only case of `execute_cases` that writes the
configuration is a CFG on an unconfigured block. -/
theorem execute_of_configured (cmd : List Byte) {s : State} (hv : s.cfgValid = true) :
    execute cmd s = .next s ∨ ∃ st d, execute cmd s = .next (respond st d s) := by
  rcases execute_cases cmd s with h | ⟨st, d, s', h, rfl | ⟨hf, -⟩⟩
  · exact .inl h
  · exact .inr ⟨st, d, h⟩
  · exact absurd (hv.symm.trans hf) Bool.noConfusion

theorem takeByte_of_configured (b : Byte) {s : State} (hv : s.cfgValid = true) :
    ∃ t, takeByte b s = .next t ∧ t.inputs = s.inputs ∧ SameConfiguration s t := by
  rcases takeByte_cases b s with ⟨-, h⟩ | ⟨-, h⟩
  · exact ⟨_, h, rfl, ⟨rfl, rfl, rfl, rfl⟩⟩
  · have hv' : (appendPending b s).cfgValid = true := hv
    rcases execute_of_configured (s.pending ++ [b]) hv' with hx | ⟨st, d, hx⟩ <;>
      exact ⟨_, h.trans (congrArg retire hx), rfl, ⟨rfl, rfl, rfl, rfl⟩⟩

/-- While configured, a step that takes no reset uses up the host's next act and keeps the configuration. -/
theorem step_of_configured {s : State} (hv : s.cfgValid = true) (hr : HostEvent.reset ∉ s.inputs.take 1) :
    ∃ t, step s = .next t ∧ t.inputs = s.inputs.tail ∧ SameConfiguration s t := by
  match hin : s.inputs with
  | [] => exact ⟨s, step_idle hin, hin, .refl s⟩
  | .take :: es => exact ⟨_, step_take hin, rfl, ⟨rfl, rfl, rfl, rfl⟩⟩
  | .reset :: es => simp [hin] at hr
  | .write b :: es =>
    have hv' : (withInputs es s).cfgValid = true := hv
    obtain ⟨t, ht, hes, hsame⟩ := takeByte_of_configured b hv'
    exact ⟨t, (step_write hin).trans ht, hes, hsame.cfgValid, hsame.poly, hsame.init, hsame.table⟩

theorem run_of_configured {n : Nat} {s t : State} (hv : s.cfgValid = true)
    (hr : HostEvent.reset ∉ s.inputs.take n) (h : run n s = .next t) : SameConfiguration s t := by
  induction n generalizing s with
  | zero =>
    obtain rfl : s = t := by simpa [run] using h
    exact .refl s
  | succ n ih =>
    have hfirst : HostEvent.reset ∉ s.inputs.take 1 :=
      fun hm => hr (List.take_subset_take_left _ (by omega) hm)
    obtain ⟨u, hstep, hin, hsu⟩ := step_of_configured hv hfirst
    have hrest : HostEvent.reset ∉ u.inputs.take n := fun hm =>
      hr (List.mem_of_mem_tail (by rwa [List.tail_take_eq_take_tail, Nat.add_sub_cancel, ← hin]))
    rw [run_succ n hstep] at h
    exact hsu.trans (ih (hsu.cfgValid.trans hv) hrest h)

/-- A second CFG is refused (40_crc.md R74). -/
theorem execCfg_of_configured {s : State} {d : List Byte} (hv : s.cfgValid = true) (hd : d.length = 4) :
    execCfg d s = .next (respond .alreadyConfigured [] s) := by
  simp [execCfg, hv, hd, raise_eq]

/-- Settles O18: `run_of_configured` carries the configuration through the run by induction on the steps, and
`execCfg_of_configured` is the refusal of a second CFG. -/
theorem configurationIsImmutable : Obligations.ConfigurationIsImmutable := by
  unfold Obligations.ConfigurationIsImmutable
  constructor
  · intro n s t hv hr h
    have hsame := run_of_configured hv hr h
    exact ⟨hsame.cfgValid.trans hv, hsame.poly, hsame.init, hsame.table⟩
  · exact fun s data hv hd => execCfg_of_configured hv hd

end Sys2Proof.Machine

/-! ## The bytes of a command: complete commands, proper prefixes, and what they decode to (30_encoding.md R45 to R52) -/

namespace Sys2Proof.Machine

theorem be16Nat_le (h l : Byte) : be16Nat h l ≤ 65535 := by
  unfold be16Nat
  omega

theorem fromBe16_toNat_eq_be16Nat (h l : Byte) : (fromBe16 h l).toNat = be16Nat h l := fromBe16_toNat h l

theorem fromBe16_eq_ofNat (h l : Byte) : fromBe16 h l = BitVec.ofNat 16 (be16Nat h l) := by
  rw [← fromBe16_toNat_eq_be16Nat, BitVec.ofNat_toNat, BitVec.setWidth_eq]

/-- `isComplete` decides `CompleteCommand` (20_memory.md R31). -/
theorem isComplete_iff (bs : List Byte) : isComplete bs = true ↔ CompleteCommand bs := by
  match bs with
  | [] | [_] | [_, _] => simp [isComplete, CompleteCommand]
  | opc :: hi :: lo :: data => simp [isComplete, CompleteCommand, fromBe16_toNat_eq_be16Nat]

theorem CompleteCommand.length_pos {c : List Byte} (hc : CompleteCommand c) : 0 < c.length := by
  obtain ⟨opc, hi, lo, data, rfl, -⟩ := hc
  simp

/-- A byte sequence is a proper prefix of a command, or it begins with a complete one (30_encoding.md R47). -/
theorem properPrefix_or_complete_append (bs : List Byte) :
    ProperPrefix bs ∨ ∃ c rest, CompleteCommand c ∧ bs = c ++ rest := by
  match bs with
  | [] | [_] | [_, _] => exact .inl (.inl (by simp))
  | opc :: hi :: lo :: body =>
    rcases Nat.lt_or_ge body.length (be16Nat hi lo) with hlt | hge
    · exact .inl (.inr ⟨opc, hi, lo, body, rfl, hlt⟩)
    · refine .inr ⟨opc :: hi :: lo :: body.take (be16Nat hi lo), body.drop (be16Nat hi lo),
        ⟨opc, hi, lo, _, rfl, List.length_take_of_le hge⟩, ?_⟩
      simp

/-- The two cases of `properPrefix_or_complete_append` exclude each other. -/
theorem CompleteCommand.not_properPrefix_append {c : List Byte} (hc : CompleteCommand c) (rest : List Byte) :
    ¬ ProperPrefix (c ++ rest) := by
  obtain ⟨opc, hi, lo, data, rfl, hlen⟩ := hc
  rintro (hshort | ⟨opc', hi', lo', data', heq, hlt⟩)
  · simp at hshort
    omega
  · simp only [List.cons_append, List.cons.injEq] at heq
    obtain ⟨-, rfl, rfl, rfl⟩ := heq
    simp at hlt
    omega

/-- No complete command is a proper beginning of another: `LEN` stands in the header (30_encoding.md R47). -/
theorem CompleteCommand.append_inj {c c' r r' : List Byte} (hc : CompleteCommand c) (hc' : CompleteCommand c')
    (h : c ++ r = c' ++ r') : c = c' ∧ r = r' := by
  obtain ⟨opc, hi, lo, data, rfl, hlen⟩ := hc
  obtain ⟨opc', hi', lo', data', rfl, hlen'⟩ := hc'
  simp only [List.cons_append, List.cons.injEq] at h
  obtain ⟨rfl, rfl, rfl, hdata⟩ := h
  obtain ⟨rfl, rfl⟩ := List.append_inj hdata (hlen.trans hlen'.symm)
  exact ⟨rfl, rfl⟩

theorem ProperPrefix.of_append {a b : List Byte} (h : ProperPrefix (a ++ b)) : ProperPrefix a := by
  rcases properPrefix_or_complete_append a with ha | ⟨c, rest, hc, rfl⟩
  · exact ha
  · rw [List.append_assoc] at h
    exact absurd h (hc.not_properPrefix_append _)

theorem CompleteCommand.properPrefix_of_append {a b : List Byte} (h : CompleteCommand (a ++ b)) (hb : b ≠ []) :
    ProperPrefix a := by
  rcases properPrefix_or_complete_append a with ha | ⟨c, rest, hc, rfl⟩
  · exact ha
  · obtain ⟨-, hnil⟩ := h.append_inj hc (r := []) (r' := rest ++ b) (by simp)
    exact absurd (List.append_eq_nil_iff.1 hnil.symm).2 hb

theorem ProperPrefix.isComplete_eq_false {bs : List Byte} (h : ProperPrefix bs) : isComplete bs = false := by
  rw [Bool.eq_false_iff, Ne, isComplete_iff]
  intro hc
  exact hc.not_properPrefix_append [] (by rwa [List.append_nil])

/-- With its `LEN` data bytes there, a command decodes by its opcode alone (30_encoding.md R47, R51). -/
theorem decode_of_length (opc : Byte) {hi lo : Byte} {data : List Byte} (rest : List Byte)
    (h : data.length = be16Nat hi lo) : decode (opc :: hi :: lo :: (data ++ rest)) = decodeOpcode opc data rest := by
  simp [decode, fromBe16_toNat_eq_be16Nat, ← h]

theorem decodeOpcode_of_illegal {opc : Byte} (h : opc ∉ ([0x01, 0x02, 0x03, 0x04] : List Byte))
    (data rest : List Byte) : decodeOpcode opc data rest = .illegalOpcode opc data rest := by
  simp only [List.mem_cons, List.not_mem_nil, or_false, not_or] at h
  obtain ⟨h1, h2, h3, h4⟩ := h
  rw [decodeOpcode, if_neg h1, if_neg h2, if_neg h3, if_neg h4]

theorem decodeOpcode_cases (opc : Byte) (data rest : List Byte) :
    (∃ i : Instr, i.opc = opc ∧ i.data = data ∧ decodeOpcode opc data rest = .command i rest) ∨
      (opc ∉ ([0x01, 0x02, 0x03, 0x04] : List Byte) ∧
        decodeOpcode opc data rest = .illegalOpcode opc data rest) := by
  by_cases h : opc ∈ ([0x01, 0x02, 0x03, 0x04] : List Byte)
  · simp only [List.mem_cons, List.not_mem_nil, or_false] at h
    rcases h with rfl | rfl | rfl | rfl
    · exact .inl ⟨.cfg data, rfl, rfl, rfl⟩
    · exact .inl ⟨.enc data, rfl, rfl, rfl⟩
    · exact .inl ⟨.dec data, rfl, rfl, rfl⟩
    · exact .inl ⟨.crc data, rfl, rfl, rfl⟩
  · exact .inr ⟨h, decodeOpcode_of_illegal h data rest⟩

/-- A complete command is one of the four, well-formed, or illegal (30_encoding.md R62). -/
theorem CompleteCommand.decode_cases {c : List Byte} (hc : CompleteCommand c) :
    (∃ i : Instr, i.wf = true ∧ decode c = .command i []) ∨
      ∃ opc data, opc ∉ ([0x01, 0x02, 0x03, 0x04] : List Byte) ∧ decode c = .illegalOpcode opc data [] := by
  obtain ⟨opc, hi, lo, data, rfl, hlen⟩ := hc
  have hdecode := decode_of_length opc [] hlen
  rw [List.append_nil] at hdecode
  rcases decodeOpcode_cases opc data [] with ⟨i, -, hdata, h⟩ | ⟨hill, h⟩
  · exact .inl ⟨i, (wf_iff i).2 (by rw [hdata, hlen]; exact be16Nat_le hi lo), hdecode.trans h⟩
  · exact .inr ⟨opc, data, hill, hdecode.trans h⟩

/-- Settles O3: `decode_of_length` leaves the opcode map, which is read off for the four opcodes and falls through for
the others. -/
theorem opcodeSelectsCommand : Obligations.OpcodeSelectsCommand := by
  unfold Obligations.OpcodeSelectsCommand
  intro opc hi lo data rest hlen
  rw [decode_of_length opc rest hlen]
  refine ⟨?_, ?_, ?_, ?_, fun h1 h2 h3 h4 => decodeOpcode_of_illegal ?_ data rest⟩
  · rintro rfl; rfl
  · rintro rfl; rfl
  · rintro rfl; rfl
  · rintro rfl; rfl
  · simpa only [List.mem_cons, List.not_mem_nil, or_false, not_or] using ⟨h1, h2, h3, h4⟩

end Sys2Proof.Machine

/-! ## Runs over the bytes of the command stream (20_memory.md R31, 30_encoding.md R48) -/

namespace Sys2Proof.Machine

theorem run_one (s : State) : run 1 s = step s := by
  cases h : step s <;> simp [run, h]

theorem run_add {m : Nat} {s t : State} (n : Nat) (h : run m s = .next t) : run (m + n) s = run n t := by
  induction m generalizing s with
  | zero =>
    obtain rfl : s = t := by simpa [run] using h
    rw [Nat.zero_add]
  | succ m ih =>
    rw [Nat.succ_add]
    cases hstep : step s with
    | next u =>
      rw [run_succ _ hstep] at h ⊢
      exact ih h
    | fault r => exact nomatch r
    | refused r => simp [run, hstep] at h

theorem clearPending_eq_self {s : State} (hp : s.pending = []) : clearPending s = s := by
  rw [clearPending, ← hp]

/-- The bytes of a proper prefix of a command collect in `PENDING`, and nothing else changes. -/
theorem run_properPrefix {s : State} {bs : List Byte} {es : List HostEvent} (hbs : ProperPrefix bs)
    (hp : s.pending = []) (hin : s.inputs = bs.map HostEvent.write ++ es) :
    run bs.length s = .next { s with pending := bs, inputs := es } := by
  induction bs using List.reverseRecOn generalizing es with
  | nil =>
    obtain rfl : s.inputs = es := hin
    exact congrArg Host.Outcome.next (clearPending_eq_self hp).symm
  | append_singleton bs b ih =>
    have hbefore := ih (es := .write b :: es) hbs.of_append (by simpa using hin)
    rw [List.length_append, run_add _ hbefore, List.length_singleton, run_one, step_write rfl]
    rcases takeByte_cases b (withInputs es { s with pending := bs, inputs := .write b :: es }) with
      ⟨-, h⟩ | ⟨hcomplete, -⟩
    · exact h
    · exact absurd (hcomplete.symm.trans hbs.isComplete_eq_false) Bool.noConfusion

/-- The bytes of a complete command run it, with all of them in `PENDING`, and then `PENDING` is cleared. -/
theorem run_completeCommand {s : State} {cmd : List Byte} {es : List HostEvent} (hc : CompleteCommand cmd)
    (hp : s.pending = []) (hin : s.inputs = cmd.map HostEvent.write ++ es) :
    run cmd.length s = retire (execute cmd { s with pending := cmd, inputs := es }) := by
  rcases List.eq_nil_or_concat cmd with rfl | ⟨bs, b, rfl⟩
  · exact absurd hc.length_pos (Nat.lt_irrefl 0)
  · rw [List.concat_eq_append] at *
    have hbefore := run_properPrefix (es := .write b :: es) (hc.properPrefix_of_append (List.cons_ne_nil b []))
      hp (by simpa using hin)
    rw [List.length_append, run_add _ hbefore, List.length_singleton, run_one, step_write rfl]
    rcases takeByte_cases b (withInputs es { s with pending := bs, inputs := .write b :: es }) with
      ⟨hpartial, -⟩ | ⟨-, h⟩
    · exact absurd (hpartial.symm.trans ((isComplete_iff _).2 hc)) Bool.noConfusion
    · exact h

theorem execute_next (cmd : List Byte) (s : State) : ∃ t, execute cmd s = .next t ∧ t.inputs = s.inputs := by
  rcases execute_cases cmd s with h | ⟨st, d, s', h, rfl | ⟨-, -, -, p, n, rfl⟩⟩
  · exact ⟨s, h, rfl⟩
  · exact ⟨_, h, rfl⟩
  · exact ⟨_, h, rfl⟩

/-- After its bytes a complete command is gone from the stream and from `PENDING`. -/
theorem run_completeCommand_next {s : State} {cmd : List Byte} {es : List HostEvent} (hc : CompleteCommand cmd)
    (hp : s.pending = []) (hin : s.inputs = cmd.map HostEvent.write ++ es) :
    ∃ t, run cmd.length s = .next t ∧ t.pending = [] ∧ t.inputs = es := by
  obtain ⟨t, ht, hes⟩ := execute_next cmd { s with pending := cmd, inputs := es }
  exact ⟨clearPending t, (run_completeCommand hc hp hin).trans (congrArg retire ht), rfl, hes⟩

theorem length_of_header {opc hi lo : Byte} {data : List Byte} (h : data.length = be16Nat hi lo) :
    (opc :: hi :: lo :: data).length = 3 + be16Nat hi lo := by
  simp only [List.length_cons, h]
  omega

/-- Settles O8: the first `k` bytes are a proper prefix of the command, so `run_properPrefix` holds them in `PENDING`;
all of them are the command, which `run_completeCommand_next` retires. -/
theorem commandConsumesItsBytes : Obligations.CommandConsumesItsBytes := by
  unfold Obligations.CommandConsumesItsBytes
  intro s opc hi lo data es hlen hp hin
  have hc : CompleteCommand (opc :: hi :: lo :: data) := ⟨opc, hi, lo, data, rfl, hlen⟩
  rw [← length_of_header (opc := opc) hlen]
  generalize opc :: hi :: lo :: data = cmd at hc hin ⊢
  refine ⟨run_completeCommand_next hc hp hin, fun k hk => ?_⟩
  have hrest : cmd.drop k ≠ [] := by simpa using hk
  have hprefix : ProperPrefix (cmd.take k) :=
    CompleteCommand.properPrefix_of_append (by rwa [List.take_append_drop]) hrest
  have hrun := run_properPrefix hprefix hp (es := (cmd.drop k).map HostEvent.write ++ es) (by
    rw [hin, ← List.append_assoc, ← List.map_append, List.take_append_drop])
  rwa [List.length_take_of_le hk.le] at hrun

/-- An illegal opcode raises ILLEGAL_COMMAND whatever its data section (30_encoding.md R52). -/
theorem execute_of_illegal {opc hi lo : Byte} {data : List Byte} (hopc : opc ∉ ([0x01, 0x02, 0x03, 0x04] : List Byte))
    (hlen : data.length = be16Nat hi lo) (s : State) :
    execute (opc :: hi :: lo :: data) s = .next (respond .illegalCommand [] s) := by
  have hdecode := decode_of_length opc [] hlen
  rw [List.append_nil, decodeOpcode_of_illegal hopc] at hdecode
  rw [execute, hdecode]
  rfl

theorem not_mem_opcodes {opc : Byte} (h : opc = 0x00 ∨ 0x05 ≤ opc.toNat) :
    opc ∉ ([0x01, 0x02, 0x03, 0x04] : List Byte) := by
  rcases h with rfl | hge
  · decide
  · intro hmem
    simp only [List.mem_cons, List.not_mem_nil, or_false] at hmem
    rcases hmem with rfl | rfl | rfl | rfl <;> simp at hge

/-- Settles O10: the run over the command's bytes is `run_completeCommand`, and what it executes is
`execute_of_illegal`. -/
theorem illegalCommandAnswers : Obligations.IllegalCommandAnswers := by
  unfold Obligations.IllegalCommandAnswers
  intro s opc hi lo data es hopc hlen hp hin
  have hrun := run_completeCommand ⟨opc, hi, lo, data, rfl, hlen⟩ hp hin
  rw [length_of_header hlen, execute_of_illegal (not_mem_opcodes hopc) hlen, retire_next] at hrun
  calc run (3 + be16Nat hi lo) s
      = .next (respond .illegalCommand [] (withInputs es (clearPending s))) := hrun
    _ = .next { s with inputs := es, respq := s.respq ++ [0x12, 0x00, 0x00] } := by
      rw [clearPending_eq_self hp]; rfl

end Sys2Proof.Machine

/-! ## The split of a byte stream (30_encoding.md R62) -/

namespace Sys2Proof.Machine

/-- Induction over a byte stream as the block reads it: a proper prefix of a command, or a command and what follows. -/
theorem stream_induction {motive : List Byte → Prop} (partialCommand : ∀ bs, ProperPrefix bs → motive bs)
    (command : ∀ c bs, CompleteCommand c → motive bs → motive (c ++ bs)) (bs : List Byte) : motive bs := by
  rcases properPrefix_or_complete_append bs with h | ⟨c, rest, hc, rfl⟩
  · exact partialCommand bs h
  · exact command c rest hc (stream_induction partialCommand command rest)
termination_by bs.length
decreasing_by
  have := hc.length_pos
  subst_vars
  simp only [List.length_append]
  omega

/-- A proper prefix of a command splits into no command and itself. -/
theorem splits_iff_of_properPrefix {bs : List Byte} (h : ProperPrefix bs) (q : List (List Byte) × List Byte) :
    Splits bs q ↔ q = ([], bs) := by
  constructor
  · rintro ⟨hcs, -, hbs⟩
    obtain ⟨_ | ⟨c, cs⟩, r⟩ := q
    · simp [hbs]
    · have hc : CompleteCommand c := hcs c (by simp)
      rw [hbs, List.flatten_cons, List.append_assoc] at h
      exact absurd h (hc.not_properPrefix_append _)
  · rintro rfl
    exact ⟨by simp, h, by simp⟩

/-- A complete command at the head of a stream is the first of its split, and the rest splits as it does alone. -/
theorem splits_append_iff {c : List Byte} (hc : CompleteCommand c) (bs : List Byte)
    (q : List (List Byte) × List Byte) :
    Splits (c ++ bs) q ↔ ∃ cs r, Splits bs (cs, r) ∧ q = (c :: cs, r) := by
  constructor
  · rintro ⟨hcs, hr, hbs⟩
    obtain ⟨_ | ⟨c', cs⟩, r⟩ := q
    · rw [List.flatten_nil, List.nil_append] at hbs
      exact absurd (hbs ▸ hr) (hc.not_properPrefix_append bs)
    · rw [List.forall_mem_cons] at hcs
      rw [List.flatten_cons, List.append_assoc] at hbs
      obtain ⟨rfl, rfl⟩ := hc.append_inj hcs.1 hbs
      exact ⟨cs, r, ⟨hcs.2, hr, rfl⟩, rfl⟩
  · rintro ⟨cs, r, ⟨hcs, hr, rfl⟩, rfl⟩
    exact ⟨List.forall_mem_cons.2 ⟨hc, hcs⟩, hr, by simp⟩

theorem existsUnique_splits (bs : List Byte) : ∃! q, Splits bs q := by
  induction bs using stream_induction with
  | partialCommand bs h =>
    simp only [splits_iff_of_properPrefix h]
    exact ⟨_, rfl, fun _ hq => hq⟩
  | command c bs hc ih =>
    obtain ⟨⟨cs, r⟩, hsplit, hunique⟩ := ih
    refine ⟨(c :: cs, r), (splits_append_iff hc bs _).2 ⟨cs, r, hsplit, rfl⟩, fun q' hq' => ?_⟩
    obtain ⟨cs', r', hsplit', rfl⟩ := (splits_append_iff hc bs q').1 hq'
    obtain ⟨rfl, rfl⟩ := Prod.mk.inj (hunique _ hsplit')
    rfl

/-- The block takes complete commands and a proper prefix after them without a stop, and holds the prefix. -/
theorem run_commands {s : State} {cs : List (List Byte)} {r : List Byte} {es : List HostEvent}
    (hcs : ∀ c ∈ cs, CompleteCommand c) (hr : ProperPrefix r) (hp : s.pending = [])
    (hin : s.inputs = (cs.flatten ++ r).map HostEvent.write ++ es) :
    ∃ t, run (cs.flatten ++ r).length s = .next t ∧ t.pending = r ∧ t.inputs = es := by
  induction cs generalizing s with
  | nil => exact ⟨_, run_properPrefix hr hp hin, rfl, rfl⟩
  | cons c cs ih =>
    rw [List.forall_mem_cons] at hcs
    obtain ⟨hc, hcs⟩ := hcs
    rw [List.flatten_cons, List.append_assoc] at hin ⊢
    rw [List.map_append, List.append_assoc] at hin
    obtain ⟨u, hu, hpu, hinu⟩ := run_completeCommand_next hc hp hin
    rw [List.length_append, run_add _ hu]
    exact ih hcs hpu hinu

/-- Settles O5: `existsUnique_splits` by induction over the stream, `CompleteCommand.decode_cases` for each command of
the split, and `run_commands` for the block. -/
theorem streamSplitsInOneWay : Obligations.StreamSplitsInOneWay := by
  unfold Obligations.StreamSplitsInOneWay
  intro bs p
  obtain ⟨q, hsplit, hunique⟩ := existsUnique_splits bs
  have ⟨hcs, hr, hbs⟩ := hsplit
  refine ⟨q, hsplit, hunique, fun c hc => (hcs c hc).decode_cases, ?_⟩
  obtain ⟨t, ht, hpending, -⟩ := run_commands (s := hostWrites bs (State.resetWith p)) (es := []) hcs hr rfl
    (by simp [← hbs])
  exact ⟨t, by rwa [← hbs] at ht, hpending⟩

end Sys2Proof.Machine

/-! ## What a command answers: the layout of a response (30_encoding.md R49) and a successful CFG (R54) -/

namespace Sys2Proof.Machine

/-- `RLEN` of a response is its data's length, high byte first. -/
theorem be16_ofNat (n : Nat) : be16 (BitVec.ofNat 16 n) = lenBytes n := by
  have hhigh : BitVec.ofNat 8 (n % 2 ^ 16 / 256) = BitVec.ofNat 8 (n / 256) := by
    apply BitVec.eq_of_toNat_eq
    simp only [BitVec.toNat_ofNat]
    omega
  have hlow : BitVec.ofNat 8 (n % 2 ^ 16) = BitVec.ofNat 8 n := by
    apply BitVec.eq_of_toNat_eq
    simp only [BitVec.toNat_ofNat]
    omega
  rw [be16_eq, BitVec.toNat_ofNat, hhigh, hlow, lenBytes]

theorem response_eq (st : Status) (d : List Byte) : response st d = [statusCode st] ++ lenBytes d.length ++ d := by
  rw [response, be16_ofNat]
  rfl

theorem wireFrame_length (d : List Byte) (w : Word) : (wireFrame d w).length = d.length + 3 := by
  simp [wireFrame]

theorem frameCandidate_length_le (f : List Byte) : (frameCandidate f).length ≤ f.length - 3 := by
  simp only [frameCandidate, memRead]
  exact List.length_take_le _ _

/-- With a legal `MAX_FRAME` the data of every command's response fits `RLEN`. -/
theorem exec_answers (i : Instr) {s : State} (hl : s.params.Legal) :
    ∃ st d s', exec i s = .next (respond st d s') ∧ d.length ≤ 65535 ∧ s'.respq = s.respq := by
  obtain ⟨hmin, hmax⟩ := hl
  cases i with
  | cfg d =>
    rcases execCfg_cases d s with ⟨st, -, h⟩ | ⟨-, -, h⟩ <;> exact ⟨_, _, _, h, by simp, rfl⟩
  | enc d =>
    rcases execEnc_cases d s with ⟨st, -, h⟩ | ⟨-, hd, h⟩
    · exact ⟨_, _, _, h, by simp, rfl⟩
    · refine ⟨_, _, _, h, ?_, rfl⟩
      rw [wireFrame_length]
      unfold maxPayload at hd
      omega
  | dec d =>
    rcases execDec_cases d s with ⟨st, -, h⟩ | ⟨-, hd, -, h⟩
    · exact ⟨_, _, _, h, by simp, rfl⟩
    · have hcand := frameCandidate_length_le d
      exact ⟨_, _, _, h, by omega, rfl⟩
  | crc d =>
    rcases execCrc_cases d s with ⟨-, h⟩ | ⟨-, h⟩ <;> exact ⟨_, _, _, h, by simp, rfl⟩

/-- A complete command's bytes run one of the four commands or raise ILLEGAL_COMMAND: never nothing. -/
theorem CompleteCommand.execute_eq {cmd : List Byte} (hc : CompleteCommand cmd) (s : State) :
    (∃ i, execute cmd s = exec i s) ∨ execute cmd s = .next (respond .illegalCommand [] s) := by
  rcases hc.decode_cases with ⟨i, -, h⟩ | ⟨opc, data, -, h⟩
  · exact .inl ⟨i, by rw [execute, h]⟩
  · exact .inr (by rw [execute, h]; rfl)

/-- Settles O39: each of the four commands answers as in `exec_answers`, an illegal one with no data, and `response_eq`
is the layout. -/
theorem everyCommandAnswersOnce : Obligations.EveryCommandAnswersOnce := by
  unfold Obligations.EveryCommandAnswersOnce
  intro s cmd hl hc
  have hanswer : ∃ st d s', execute cmd s = .next (respond st d s') ∧ d.length ≤ 65535 ∧ s'.respq = s.respq := by
    rcases hc.execute_eq s with ⟨i, h⟩ | h
    · rw [h]
      exact exec_answers i hl
    · exact ⟨_, _, _, h, by simp, rfl⟩
  obtain ⟨st, d, s', h, hfits, hq⟩ := hanswer
  refine ⟨_, statusCode st, d, h, hfits, ?_⟩
  rw [respond_respq, hq, response_eq]
  simp only [List.append_assoc]

theorem execCfg_of_unconfigured {s : State} {d : List Byte} (hv : s.cfgValid = false) (hd : d.length = 4) :
    execCfg d s = .next (respond .ok [] (loadConfig (cfgPoly d) (cfgInit d) s)) := by
  simp [execCfg, hv, hd]

/-- The CFG operands are the two big-endian words of its four bytes (30_encoding.md R54). -/
theorem cfg_operands (ph pl ih il : Byte) :
    cfgPoly [ph, pl, ih, il] = BitVec.ofNat 16 (be16Nat ph pl) ∧
      cfgInit [ph, pl, ih, il] = BitVec.ofNat 16 (be16Nat ih il) :=
  ⟨fromBe16_eq_ofNat ph pl, fromBe16_eq_ofNat ih il⟩

/-- Settles O28: `execCfg_of_unconfigured` with the operands of `cfg_operands`; the table is the built one, whose
entries are `buildTable_get`. -/
theorem cfgLoadsConfiguration : Obligations.CfgLoadsConfiguration := by
  unfold Obligations.CfgLoadsConfiguration
  intro s ph pl ih il hv
  obtain ⟨hpoly, hinit⟩ := cfg_operands ph pl ih il
  have hexec := execCfg_of_unconfigured (d := [ph, pl, ih, il]) hv rfl
  rw [hpoly, hinit] at hexec
  exact ⟨buildTable (BitVec.ofNat 16 (be16Nat ph pl)), hexec, buildTable_get _⟩

end Sys2Proof.Machine

/-! ## The CRC as a function of the register and the input: chaining, linearity, the table (40_crc.md R64 to R72) -/

namespace Sys2Proof.Machine

/-- A CRC continues over a split input (40_crc.md R71). -/
theorem crc16_append (a b : List Byte) (poly init : Word) :
    crc16 (a ++ b) poly init = crc16 b poly (crc16 a poly init) := List.foldl_append

/-- Settles O23: the CRC is a fold over its input, and `crc16_append` is the fold over a split one. -/
theorem crcOfEmptyAndSplitInput : Obligations.CrcOfEmptyAndSplitInput := by
  unfold Obligations.CrcOfEmptyAndSplitInput
  exact ⟨fun _ _ => rfl, crc16_append⟩

/-- A byte step splits into what the register and what the byte contribute: `crcShifts_xor` on the byte's entry. -/
theorem crcStep_eq (c : Word) (b : Byte) (poly : Word) :
    crcStep c b poly = crcShifts poly 8 c ^^^ tableEntry poly b := by
  rw [crcStep, crcShifts_xor, tableEntry, crcStep, BitVec.zero_xor]

/-- A table entry is the shifts of its byte alone, from bits 15..8 (40_crc.md R67). -/
theorem tableEntry_eq (poly : Word) (b : Byte) : tableEntry poly b = crcShifts poly 8 (b.setWidth 16 <<< 8) := by
  rw [tableEntry, crcStep, BitVec.zero_xor]

/-- The table is linear over GF(2) in its index. -/
theorem tableEntry_xor (poly : Word) (a b : Byte) :
    tableEntry poly (a ^^^ b) = tableEntry poly a ^^^ tableEntry poly b := by
  simp only [tableEntry_eq, BitVec.setWidth_xor, BitVec.shiftLeft_xor_distrib, crcShifts_xor]

/-- A byte step is linear over GF(2) in the register and the byte. -/
theorem crcStep_xor (c₁ c₂ : Word) (b₁ b₂ : Byte) (poly : Word) :
    crcStep (c₁ ^^^ c₂) (b₁ ^^^ b₂) poly = crcStep c₁ b₁ poly ^^^ crcStep c₂ b₂ poly := by
  simp only [crcStep_eq, crcShifts_xor, tableEntry_xor]
  ac_rfl

/-- The CRC is linear over GF(2) in the input and the initial value (40_crc.md R72). -/
theorem crc16_xor {a b : List Byte} (h : a.length = b.length) (poly i₁ i₂ : Word) :
    crc16 a poly i₁ ^^^ crc16 b poly i₂ = crc16 (List.zipWith (· ^^^ ·) a b) poly (i₁ ^^^ i₂) := by
  induction a generalizing b i₁ i₂ with
  | nil =>
    obtain rfl : b = [] := List.length_eq_zero_iff.1 h.symm
    rfl
  | cons x a ih =>
    match b, h with
    | y :: b, h => rw [List.zipWith_cons_cons, crc16_cons, crc16_cons, crc16_cons, crcStep_xor, ih (Nat.succ.inj h)]

/-- Settles O24: `crc16_xor`, which carries `crcStep_xor` through the two inputs byte by byte. -/
theorem crcIsLinear : Obligations.CrcIsLinear := by
  unfold Obligations.CrcIsLinear
  exact fun a b poly i₁ i₂ h => crc16_xor h poly i₁ i₂

theorem crcShift_of_msb_false (poly : Word) {c : Word} (h : c.msb = false) : crcShift poly c = c <<< 1 := by
  rw [crcShift, h, if_neg Bool.false_ne_true]

theorem toNat_crcShift_of_msb_false (poly : Word) {c : Word} (h : c.msb = false) :
    (crcShift poly c).toNat = 2 * c.toNat := by
  have hlt := BitVec.msb_eq_false_iff_two_mul_lt.1 h
  rw [crcShift_of_msb_false poly h, BitVec.toNat_shiftLeft, Nat.shiftLeft_eq, Nat.mod_eq_of_lt (by omega)]
  omega

/-- While no set bit leaves the register, the shifts do not use the polynomial. -/
theorem crcShifts_of_mul_lt (poly : Word) (n : Nat) {c : Word} (h : c.toNat * 2 ^ n < 2 ^ 16) :
    crcShifts poly n c = c <<< n := by
  induction n generalizing c with
  | zero => simp [crcShifts]
  | succ n ih =>
    have hdouble : 2 * c.toNat * 2 ^ n < 2 ^ 16 := by
      rwa [Nat.pow_succ', ← Nat.mul_assoc, Nat.mul_comm c.toNat] at h
    have hlt : 2 * c.toNat < 2 ^ 16 := Nat.lt_of_le_of_lt (Nat.le_mul_of_pos_right _ (Nat.two_pow_pos n)) hdouble
    have hmsb : c.msb = false := BitVec.msb_eq_false_iff_two_mul_lt.2 hlt
    rw [crcShifts, ih (by rwa [toNat_crcShift_of_msb_false poly hmsb]), crcShift_of_msb_false poly hmsb,
      ← BitVec.shiftLeft_add, Nat.add_comm]

/-- The register is its low byte, and its high byte where an input byte enters. -/
theorem word_eq_low_xor_high (c : Word) :
    c = (c.setWidth 8).setWidth 16 ^^^ ((c.extractLsb' 8 8).setWidth 16 <<< 8) := by
  ext k hk
  by_cases hlow : k < 8
  · simp [hlow, BitVec.getLsbD_eq_getElem hk]
  · simp [hlow, show k - 8 < 8 by omega, show 8 + (k - 8) = k by omega, BitVec.getLsbD_eq_getElem hk]

/-- In 8 shifts the low byte only moves up. -/
theorem crcShifts_low (poly c : Word) : crcShifts poly 8 ((c.setWidth 8).setWidth 16) = c <<< 8 := by
  have hnat : ((c.setWidth 8).setWidth 16).toNat = c.toNat % 256 := by
    simp only [BitVec.toNat_setWidth]
    omega
  rw [crcShifts_of_mul_lt _ _ (by omega)]
  apply BitVec.eq_of_toNat_eq
  rw [BitVec.toNat_shiftLeft, BitVec.toNat_shiftLeft, hnat, Nat.shiftLeft_eq, Nat.shiftLeft_eq]
  omega

theorem crcShifts_eight (poly c : Word) :
    crcShifts poly 8 c = (c <<< 8) ^^^ tableEntry poly (c.extractLsb' 8 8) := by
  conv_lhs => rw [word_eq_low_xor_high c, crcShifts_xor, crcShifts_low, ← tableEntry_eq]

/-- The table-driven step (40_crc.md R68): the table is linear, so the high byte joins the input byte in its index. -/
theorem crcStep_eq_tableEntry (c : Word) (b : Byte) (poly : Word) :
    crcStep c b poly = (c <<< 8) ^^^ tableEntry poly (c.extractLsb' 8 8 ^^^ b) := by
  rw [crcStep_eq, crcShifts_eight, tableEntry_xor, BitVec.xor_assoc]

/-- The step through a built table is the bitwise step. -/
theorem crcStepByTable_buildTable (poly c : Word) (b : Byte) :
    crcStepByTable (buildTable poly) c b = crcStep c b poly := by
  rw [crcStepByTable, buildTable_get, crcStep_eq_tableEntry, BitVec.val_toFin, BitVec.ofNat_toNat,
    BitVec.setWidth_eq]

/-- Settles O22: `crcStep_eq_tableEntry` is the step, and `crcStepByTable_buildTable` makes the two folds one. -/
theorem tableDrivenCrcAgrees : Obligations.TableDrivenCrcAgrees := by
  unfold Obligations.TableDrivenCrcAgrees
  refine ⟨crcStep_eq_tableEntry, fun d poly init => ?_⟩
  have hstep : crcStepByTable (buildTable poly) = fun c b => crcStep c b poly :=
    funext₂ (crcStepByTable_buildTable poly)
  rw [crc16ByTable, hstep, crc16]

end Sys2Proof.Machine

/-! ## The polynomial 0x0000 (40_crc.md R73) -/

namespace Sys2Proof.Machine

theorem crcShifts_zeroPoly (n : Nat) (c : Word) : crcShifts 0#16 n c = c <<< n := by
  induction n generalizing c with
  | zero => simp [crcShifts]
  | succ n ih =>
    have hshift : crcShift 0#16 c = c <<< 1 := by simp [crcShift]
    rw [crcShifts, hshift, ih, ← BitVec.shiftLeft_add, Nat.add_comm]

/-- The byte enters at bits 15..8, and 8 plain shifts drop it. -/
theorem crcStep_zeroPoly (c : Word) (b : Byte) : crcStep c b 0#16 = c <<< 8 := by
  rw [crcStep, crcShifts_zeroPoly, BitVec.shiftLeft_xor_distrib, ← BitVec.shiftLeft_add,
    BitVec.shiftLeft_eq_zero (n := 8 + 8) (by omega)]
  exact BitVec.xor_zero

theorem crc16_zeroPoly (d : List Byte) (init : Word) : crc16 d 0#16 init = init <<< (8 * d.length) := by
  induction d generalizing init with
  | nil => simp [crc16]
  | cons b d ih =>
    rw [crc16_cons, crcStep_zeroPoly, ih, ← BitVec.shiftLeft_add, List.length_cons, Nat.mul_succ, Nat.add_comm]

/-- `c[7:0] << 8` from the number itself. -/
theorem shiftLeft_eight_eq (c : Word) : c <<< 8 = BitVec.ofNat 16 (256 * (c.toNat % 256)) := by
  apply BitVec.eq_of_toNat_eq
  rw [BitVec.toNat_shiftLeft, BitVec.toNat_ofNat, Nat.shiftLeft_eq]
  omega

/-- Settles O25: the CRC is `crc16_zeroPoly`, a plain shift by the input's length, and CFG answers by
`execCfg_of_unconfigured`. -/
theorem zeroPolynomialIgnoresPayload : Obligations.ZeroPolynomialIgnoresPayload := by
  unfold Obligations.ZeroPolynomialIgnoresPayload
  refine ⟨fun c b => (crcStep_zeroPoly c b).trans (shiftLeft_eight_eq c), fun d init => ?_, fun s ih il hv => ?_⟩
  · have hcrc : crc16 d 0x0000 init = init <<< (8 * d.length) := crc16_zeroPoly d init
    rw [hcrc]
    refine ⟨fun h => ?_, fun h => ?_, fun h => BitVec.shiftLeft_eq_zero (by omega)⟩
    · rw [h, Nat.mul_zero, BitVec.shiftLeft_zero]
    · rw [h, Nat.mul_one, shiftLeft_eight_eq]
  · exact ⟨_, execCfg_of_unconfigured hv rfl, rfl, (cfg_operands 0x00 0x00 ih il).1, rfl⟩

end Sys2Proof.Machine

/-! ## One flipped bit (40_crc.md R76) -/

namespace Sys2Proof.Machine

theorem crcShifts_add (poly : Word) (m n : Nat) (c : Word) :
    crcShifts poly (m + n) c = crcShifts poly n (crcShifts poly m c) := by
  induction m generalizing c with
  | zero => rw [Nat.zero_add, crcShifts]
  | succ m ih => rw [Nat.succ_add, crcShifts, ih, crcShifts]

/-- A difference in the register is shifted through the rest of the input, whatever its bytes. -/
theorem crc16_xor_init (d : List Byte) (poly c δ : Word) :
    crc16 d poly (c ^^^ δ) = crc16 d poly c ^^^ crcShifts poly (8 * d.length) δ := by
  induction d generalizing c δ with
  | nil => rfl
  | cons b d ih =>
    have hstep : crcStep (c ^^^ δ) b poly = crcStep c b poly ^^^ crcShifts poly 8 δ := by
      rw [crcStep_eq, crcStep_eq, crcShifts_xor]
      ac_rfl
    rw [crc16_cons, crc16_cons, hstep, ih, ← crcShifts_add, List.length_cons, Nat.mul_succ, Nat.add_comm]

theorem flipBit_length (d : List Byte) (j k : Nat) : (flipBit d j k).length = d.length := by
  rw [flipBit, List.length_modify]

/-- Bit `k` of a byte enters the register as bit `8 + k`. -/
theorem setWidth_flippedBit : ∀ k < 8, BitVec.setWidth 16 (1#8 <<< k) <<< 8 = BitVec.twoPow 16 (8 + k) := by decide

/-- The change in the CRC that a flipped bit makes depends on neither the input nor the initial value: it is the bit
that enters the register, shifted to the input's end (40_crc.md R76). -/
theorem crc16_flipBit {d : List Byte} {j k : Nat} (hj : j < d.length) (hk : k < 8) (poly init : Word) :
    crc16 (flipBit d j k) poly init =
      crc16 d poly init ^^^ crcShifts poly (8 * (d.length - j)) (BitVec.twoPow 16 (8 + k)) := by
  induction d generalizing j init with
  | nil => exact absurd hj (Nat.not_lt_zero j)
  | cons b d ih =>
    cases j with
    | zero =>
      have hflip : flipBit (b :: d) 0 k = (b ^^^ (1#8 <<< k)) :: d := rfl
      have hstep : crcStep init (b ^^^ (1#8 <<< k)) poly =
          crcStep init b poly ^^^ crcShifts poly 8 (BitVec.twoPow 16 (8 + k)) := by
        rw [crcStep_eq, tableEntry_xor, tableEntry_eq poly (1#8 <<< k), setWidth_flippedBit k hk, ← BitVec.xor_assoc,
          ← crcStep_eq]
      rw [hflip, crc16_cons, crc16_cons, hstep, crc16_xor_init, ← crcShifts_add, Nat.sub_zero, List.length_cons,
        Nat.mul_succ, Nat.add_comm]
    | succ j =>
      have hflip : flipBit (b :: d) (j + 1) k = b :: flipBit d j k := rfl
      rw [hflip, crc16_cons, crc16_cons, ih (Nat.lt_of_succ_lt_succ hj), List.length_cons, Nat.succ_sub_succ]

/-- What no number of shifts brings to zero: a single bit below the polynomial's lowest one, or a nonzero register with
no bit below it, that is a multiple of the highest power of `x` that divides `G(x)`. -/
def NeverZero (poly c : Word) : Prop :=
  (∃ i < poly.ctz.toNat, c = BitVec.twoPow 16 i) ∨ (c ≠ 0#16 ∧ ∀ i < poly.ctz.toNat, c.getLsbD i = false)

theorem ctz_lt_of_ne_zero {poly : Word} (hp : poly ≠ 0#16) : poly.ctz.toNat < 16 :=
  BitVec.ctz_lt_iff_ne_zero.2 hp

theorem twoPow_ne_zero {i : Nat} (hi : i < 16) : BitVec.twoPow 16 i ≠ 0#16 := by
  intro h
  have hbit := congrArg (BitVec.getLsbD · i) h
  simp [hi] at hbit

theorem NeverZero.ne_zero {poly c : Word} (hp : poly ≠ 0#16) (h : NeverZero poly c) : c ≠ 0#16 := by
  rcases h with ⟨i, hi, rfl⟩ | ⟨hc, -⟩
  · exact twoPow_ne_zero (hi.trans (ctz_lt_of_ne_zero hp))
  · exact hc

theorem neverZero_twoPow (poly : Word) {i : Nat} (hi : i < 16) : NeverZero poly (BitVec.twoPow 16 i) := by
  rcases Nat.lt_or_ge i poly.ctz.toNat with hlow | hhigh
  · exact .inl ⟨i, hlow, rfl⟩
  · refine .inr ⟨twoPow_ne_zero hi, fun k hk => ?_⟩
    rw [BitVec.getLsbD_twoPow, decide_eq_false (p := i = k) (by omega), Bool.and_false]

/-- A single bit below bit 15 moves up. -/
theorem crcShift_twoPow (poly : Word) {i : Nat} (hi : i < 15) :
    crcShift poly (BitVec.twoPow 16 i) = BitVec.twoPow 16 (i + 1) := by
  have hmsb : (BitVec.twoPow 16 i).msb = false := by
    rw [BitVec.msb_twoPow, decide_eq_false (p := i = 16 - 1) (by omega), Bool.and_false]
  rw [crcShift_of_msb_false poly hmsb, BitVec.twoPow_eq, BitVec.twoPow_eq, BitVec.shiftLeft_add]

theorem getLsbD_crcShift (poly c : Word) (i : Nat) :
    (crcShift poly c).getLsbD i = ((c <<< 1).getLsbD i ^^ (c.msb && poly.getLsbD i)) := by
  cases h : c.msb <;> simp [crcShift, h]

/-- A shift keeps `NeverZero`. A register with no bit below the polynomial's lowest one, `t`, has none at `t` after it
has moved up, so that an XOR with the polynomial sets bit `t`; without the XOR no bit was lost. -/
theorem NeverZero.crcShift {poly c : Word} (hp : poly ≠ 0#16) (h : NeverZero poly c) :
    NeverZero poly (crcShift poly c) := by
  have ht := ctz_lt_of_ne_zero hp
  rcases h with ⟨i, hi, rfl⟩ | ⟨hc, hbits⟩
  · rw [crcShift_twoPow poly (by omega)]
    exact neverZero_twoPow poly (by omega)
  · have hmoved : ∀ i ≤ poly.ctz.toNat, (c <<< 1).getLsbD i = false := by
      intro i hi
      rw [BitVec.getLsbD_shiftLeft]
      cases i with
      | zero => rfl
      | succ i => rw [Nat.add_sub_cancel, hbits i (by omega), Bool.and_false]
    refine .inr ⟨fun hzero => ?_, fun i hi => ?_⟩
    · cases hmsb : c.msb with
      | true =>
        have hbit := getLsbD_crcShift poly c poly.ctz.toNat
        rw [hzero, hmoved _ le_rfl, hmsb, BitVec.getLsbD_true_ctz_of_ne_zero hp, BitVec.getLsbD_zero] at hbit
        exact Bool.noConfusion hbit
      | false =>
        have hnat := toNat_crcShift_of_msb_false poly hmsb
        rw [hzero, BitVec.toNat_zero] at hnat
        exact hc (BitVec.eq_of_toNat_eq (by rw [BitVec.toNat_zero]; omega))
    · rw [getLsbD_crcShift, hmoved i hi.le, BitVec.getLsbD_false_of_lt_ctz hi, Bool.and_false, Bool.xor_false]

theorem NeverZero.crcShifts {poly c : Word} (hp : poly ≠ 0#16) (h : NeverZero poly c) (n : Nat) :
    NeverZero poly (crcShifts poly n c) := by
  induction n generalizing c with
  | zero => exact h
  | succ n ih => exact ih (h.crcShift hp)

/-- Settles O26: by `crc16_flipBit` the change is one bit shifted on, which `NeverZero` holds above zero under a nonzero
polynomial; under `0x0000` both CRCs are `crc16_zeroPoly` of one length. -/
theorem singleBitErrorChangesCrc : Obligations.SingleBitErrorChangesCrc := by
  unfold Obligations.SingleBitErrorChangesCrc
  intro d init j k hj hk
  refine ⟨fun poly hp heq => ?_, fun _ => ?_⟩
  · rw [crc16_flipBit hj hk] at heq
    have hstart : NeverZero poly (BitVec.twoPow 16 (8 + k)) := neverZero_twoPow poly (by omega)
    exact (hstart.crcShifts hp _).ne_zero hp (by simpa using heq)
  · calc crc16 (flipBit d j k) 0x0000 init
      _ = init <<< (8 * (flipBit d j k).length) := crc16_zeroPoly _ init
      _ = init <<< (8 * d.length) := by rw [flipBit_length]
      _ = crc16 d 0x0000 init := (crc16_zeroPoly d init).symm

end Sys2Proof.Machine

/-! ## Frames through the block: ENC (41_encoder.md R79 to R83) and DEC of a frame that passes the checks -/

namespace Sys2Proof.Machine

theorem exec_enc (d : List Byte) (s : State) : exec (.enc d) s = execEnc d s := rfl

theorem exec_dec (f : List Byte) (s : State) : exec (.dec f) s = execDec f s := rfl

/-- The layout of a successful answer (30_encoding.md R49), in the words of the statements. -/
theorem respond_ok_eq (d : List Byte) (s : State) :
    respond .ok d s = answered s ([0x00] ++ lenBytes d.length ++ d) :=
  congrArg (answered s) (response_eq .ok d)

theorem respond_nil_eq (st : Status) (s : State) : respond st [] s = answered s [statusCode st, 0x00, 0x00] :=
  congrArg (answered s) (response_nil st)

/-- What an OK answer carries can be read off the bytes it appends: its status is `0x00` and its data stand behind the
three bytes of the header. -/
theorem respond_eq_answered_ok {s : State} {st : Status} {d d' : List Byte}
    (h : respond st d s = answered s ([0x00] ++ lenBytes d'.length ++ d')) : st = .ok ∧ d = d' := by
  have hq : response st d = [0x00] ++ lenBytes d'.length ++ d' := List.append_cancel_left (congrArg State.respq h)
  rw [response_eq, List.append_assoc, List.append_assoc] at hq
  obtain ⟨hst, hd⟩ := List.append_inj hq rfl
  refine ⟨?_, (List.append_inj hd rfl).2⟩
  cases st with
  | ok => rfl
  | _ => exact absurd hst (by decide)

/-- The frame of the statements is the frame the encoder writes (30_encoding.md R56). -/
theorem frameOf_eq (p : List Byte) (s : State) : frameOf p s = wireFrame p (checksum p s) :=
  congrArg (Config.marker :: p ++ ·) (be16_eq (checksum p s)).symm

theorem frameOf_length (p : List Byte) (s : State) : (frameOf p s).length = p.length + 3 := by
  rw [frameOf_eq, wireFrame_length]

theorem frameOf_congr (p : List Byte) {s u : State} (hpoly : u.poly = s.poly) (hinit : u.init = s.init) :
    frameOf p u = frameOf p s := by
  rw [frameOf, frameOf, hpoly, hinit]

theorem execEnc_of_tooLong {s : State} {p : List Byte} (hp : s.params.maxFrame - 3 < p.length) :
    execEnc p s = .next (respond .lengthOutOfRange [] s) := by
  simp [execEnc, maxPayload, hp, raise_eq]

/-- In range and configured, ENC succeeds whatever the payload's bytes (41_encoder.md R79). -/
theorem execEnc_of_configured {s : State} {p : List Byte} (hv : s.cfgValid = true)
    (hp : p.length ≤ s.params.maxFrame - 3) : execEnc p s = .next (respond .ok (frameOf p s) s) := by
  simp [execEnc, maxPayload, hv, Nat.not_lt.mpr hp, frameOf_eq]

/-- A frame of fewer than `MIN_FRAME` bytes is too short whatever its bytes (42_decoder.md R86). -/
theorem execDec_of_tooShort {s : State} {f : List Byte} (hl : s.params.Legal) (hv : s.cfgValid = true)
    (hf : f.length < 4) : execDec f s = .next (respond .frameTooShort [] s) := by
  have hmax : ¬ s.params.maxFrame < f.length := Nat.not_lt.mpr (Nat.le_trans (Nat.le_of_lt hf) hl.1)
  simp [execDec, hmax, hv, hf, raise_eq]

/-- A frame that passes the length, marker and checksum checks answers its candidate payload (42_decoder.md R91). -/
theorem execDec_of_accepted {s : State} {cand : List Byte} {h l : Byte} (hv : s.cfgValid = true)
    (hmin : 1 ≤ cand.length) (hmax : cand.length + 3 ≤ s.params.maxFrame) (hcrc : checksum cand s = fromBe16 h l) :
    execDec (Config.marker :: cand ++ [h, l]) s = .next (respond .ok cand s) := by
  obtain ⟨hmarker, hcand, hdeclared⟩ := frame_fields Config.marker cand h l
  have hlen : (Config.marker :: cand ++ [h, l]).length = cand.length + 3 := by simp
  have hfits : ¬ s.params.maxFrame < cand.length + 3 := Nat.not_lt.mpr hmax
  have hlong : ¬ cand.length + 3 < Config.minFrame := Nat.not_lt.mpr (Nat.add_le_add_right hmin 3)
  simp only [execDec, hlen, hfits, hv, hlong, hmarker, hcand, hdeclared, hcrc, ne_eq, not_true_eq_false,
    Bool.true_eq_false, if_false]

/-- DEC reads back what ENC wrote under the same configuration: the declared checksum is the payload's own. -/
theorem execDec_frameOf {s : State} {p : List Byte} (hv : s.cfgValid = true) (hmin : 1 ≤ p.length)
    (hmax : p.length + 3 ≤ s.params.maxFrame) : execDec (frameOf p s) s = .next (respond .ok p s) := by
  rw [frameOf_eq]
  exact execDec_of_accepted hv hmin hmax (fromBe16_of_be16 (checksum p s)).symm

/-- Settles O43: ENC answers `frameOf p s`, which is `frameOf p u` under the same configuration; DEC in `u` then answers
by `execDec_frameOf`, or by `execDec_of_tooShort` for the frame of the empty payload. -/
theorem roundTrip : Obligations.RoundTrip := by
  unfold Obligations.RoundTrip
  intro s u p hl hv hp hvu hpoly hinit hparams
  have hlen : (frameOf p s).length = p.length + 3 := frameOf_length p s
  refine ⟨frameOf p s, ?_, fun hpos => ?_, fun hzero => ⟨by omega, ?_⟩⟩
  · rw [exec_enc, execEnc_of_configured hv hp, respond_ok_eq]
  · have hmax : p.length + 3 ≤ u.params.maxFrame := by
      rw [hparams]
      exact Nat.add_le_of_le_sub (Nat.le_of_succ_le hl.1) hp
    rw [exec_dec, ← frameOf_congr p hpoly hinit, execDec_frameOf hvu hpos hmax, respond_ok_eq]
  · have hlu : u.params.Legal := hparams ▸ hl
    rw [exec_dec, execDec_of_tooShort hlu hvu (by omega), respond_nil_eq]
    rfl

/-- Settles O32: `execEnc_of_configured` is the answer, and a legal `MAX_FRAME` bounds the frame of `frameOf_length`. -/
theorem encAnswersFrame : Obligations.EncAnswersFrame := by
  unfold Obligations.EncAnswersFrame
  intro s p ⟨hmin, hmax⟩ hv hp
  have hlen : (frameOf p s).length = p.length + 3 := frameOf_length p s
  refine ⟨?_, hlen, by omega, by omega, by omega⟩
  rw [exec_enc, execEnc_of_configured hv hp, respond_ok_eq, hlen]
  rfl

/-- Settles O33: by `execEnc_cases` ENC answers a refusal, whose status `respond_eq_answered_ok` tells from OK, or the
frame of a payload in range, which is `p.length + 3` bytes long. -/
theorem encBoundsPayload : Obligations.EncBoundsPayload := by
  unfold Obligations.EncBoundsPayload
  intro s p ⟨hmin, _⟩
  refine ⟨fun hlong => ?_, fun frame hanswer => ?_⟩
  · rw [exec_enc, execEnc_of_tooLong hlong, respond_nil_eq]
    rfl
  · rcases execEnc_cases p s with ⟨st, hst, hrefused⟩ | ⟨-, hp, hframe⟩
    · rw [exec_enc, hrefused, Host.Outcome.next.injEq] at hanswer
      obtain ⟨rfl, -⟩ := respond_eq_answered_ok hanswer
      exact absurd hst (by decide)
    · rw [exec_enc, hframe, Host.Outcome.next.injEq] at hanswer
      obtain ⟨-, rfl⟩ := respond_eq_answered_ok hanswer
      rw [wireFrame_length]
      exact Nat.add_le_of_le_sub (Nat.le_of_succ_le hmin) hp

end Sys2Proof.Machine

/-! ## DEC of any frame attempt in range: the order of its checks (42_decoder.md R85 to R93) -/

namespace Sys2Proof.Machine

/-- Configured and with a length in range, DEC is down to its last two checks: the marker, then the checksum
(42_decoder.md R93). -/
theorem execDec_of_inRange (m : Byte) {s : State} {cand : List Byte} (h l : Byte) (hv : s.cfgValid = true)
    (hmin : 1 ≤ cand.length) (hmax : cand.length + 3 ≤ s.params.maxFrame) :
    execDec (m :: cand ++ [h, l]) s =
      if m ≠ Config.marker then raise .invalidStart s
      else if checksum cand s ≠ fromBe16 h l then raise .checksumMismatch s
      else .next (respond .ok cand s) := by
  obtain ⟨hmarker, hcand, hdeclared⟩ := frame_fields m cand h l
  have hlen : (m :: cand ++ [h, l]).length = cand.length + 3 := by simp
  have hfits : ¬ s.params.maxFrame < cand.length + 3 := Nat.not_lt.mpr hmax
  have hlong : ¬ cand.length + 3 < Config.minFrame := Nat.not_lt.mpr (Nat.add_le_add_right hmin 3)
  rw [execDec, hlen, hmarker, hcand, hdeclared, hv, if_neg hfits, if_neg Bool.false_ne_true.symm, if_neg hlong]

/-- A wrong first byte decides the status whatever the checksum (42_decoder.md R87). -/
theorem execDec_of_invalidStart {m : Byte} {s : State} {cand : List Byte} (h l : Byte) (hv : s.cfgValid = true)
    (hmin : 1 ≤ cand.length) (hmax : cand.length + 3 ≤ s.params.maxFrame) (hm : m ≠ Config.marker) :
    execDec (m :: cand ++ [h, l]) s = .next (respond .invalidStart [] s) := by
  rw [execDec_of_inRange m h l hv hmin hmax, if_pos hm, raise_eq]

/-- Behind the marker, a declared checksum that is not the candidate's own is refused (42_decoder.md R90). -/
theorem execDec_of_checksumMismatch {s : State} {cand : List Byte} {h l : Byte} (hv : s.cfgValid = true)
    (hmin : 1 ≤ cand.length) (hmax : cand.length + 3 ≤ s.params.maxFrame) (hcrc : checksum cand s ≠ fromBe16 h l) :
    execDec (Config.marker :: cand ++ [h, l]) s = .next (respond .checksumMismatch [] s) := by
  rw [execDec_of_inRange _ h l hv hmin hmax, if_neg (not_not.mpr rfl), if_pos hcrc, raise_eq]

/-- Settles O35: `execDec_of_accepted`, where `fromBe16_eq_ofNat` reads the declared checksum as a number. -/
theorem decAnswersPayload : Obligations.DecAnswersPayload := by
  unfold Obligations.DecAnswersPayload
  intro s cand h l hv hmin hmax hcrc
  have hdeclared : checksum cand s = fromBe16 h l := hcrc.trans (fromBe16_eq_ofNat h l).symm
  exact (execDec_of_accepted hv hmin hmax hdeclared).trans (congrArg _ (respond_ok_eq cand s))

/-- Settles O36: `execDec_of_tooShort`, `execDec_of_invalidStart` and `execDec_of_checksumMismatch` are the three checks. -/
theorem decChecksInOrder : Obligations.DecChecksInOrder := by
  unfold Obligations.DecChecksInOrder
  intro s hl hv
  refine ⟨fun f hf => ?_, fun m cand h l hmin hmax => ⟨fun hm => ?_, fun hm hcrc => ?_⟩⟩
  · exact (execDec_of_tooShort hl hv hf).trans (congrArg _ (respond_nil_eq _ s))
  · exact (execDec_of_invalidStart h l hv hmin hmax hm).trans (congrArg _ (respond_nil_eq _ s))
  · subst hm
    rw [← fromBe16_eq_ofNat] at hcrc
    exact (execDec_of_checksumMismatch hv hmin hmax hcrc).trans (congrArg _ (respond_nil_eq _ s))

end Sys2Proof.Machine

/-! ## DEC of an ENC frame with one bit flipped (42_decoder.md R96) -/

namespace Sys2Proof.Machine

/-- Some bit of the mask is set, so a flipped bit is a changed byte. -/
theorem xor_flippedBit_ne (b : Byte) {k : Nat} (hk : k < 8) : b ^^^ (1#8 <<< k) ≠ b := by
  have hmask : ∀ k < 8, 1#8 <<< k ≠ 0#8 := by decide
  simpa using hmask k hk

theorem flipBit_ne_self {d : List Byte} {j k : Nat} (hj : j < d.length) (hk : k < 8) : flipBit d j k ≠ d := by
  intro heq
  have hbyte : (flipBit d j k)[j]? = d[j]? := by rw [heq]
  rw [flipBit, List.getElem?_modify_eq, List.getElem?_eq_getElem hj] at hbyte
  exact xor_flippedBit_ne d[j] hk (Option.some.inj hbyte)

theorem flipBit_append_right (a d : List Byte) (j k : Nat) :
    flipBit (a ++ d) (a.length + j) k = a ++ flipBit d j k := List.modifyTailIdx_add _ j a d

theorem flipBit_append_left {a : List Byte} (d : List Byte) {j : Nat} (hj : j < a.length) (k : Nat) :
    flipBit (a ++ d) j k = flipBit a j k ++ d := by
  induction a generalizing j with
  | nil => exact absurd hj (Nat.not_lt_zero j)
  | cons b a ih =>
    cases j with
    | zero => rfl
    | succ j => exact congrArg (b :: ·) (ih (Nat.lt_of_succ_lt_succ hj))

/-- A flip in the marker leaves another first byte in front of the payload and its checksum. -/
theorem flipBit_frameOf_marker (p : List Byte) (s : State) {k : Nat} (hk : k < 8) :
    ∃ m h l, m ≠ Config.marker ∧ flipBit (frameOf p s) 0 k = m :: p ++ [h, l] :=
  ⟨_, _, _, xor_flippedBit_ne Config.marker hk, rfl⟩

/-- A flip in the payload leaves the payload's own checksum behind the altered one. -/
theorem flipBit_frameOf_payload {p : List Byte} {i : Nat} (hi : i < p.length) (s : State) (k : Nat) :
    flipBit (frameOf p s) (i + 1) k = wireFrame (flipBit p i k) (checksum p s) := by
  rw [frameOf_eq]
  exact congrArg (Config.marker :: ·) (flipBit_append_left _ hi k)

/-- A flip in a checksum byte leaves another checksum behind the payload: a word is given by its two bytes. -/
theorem flipBit_frameOf_checksum (p : List Byte) (s : State) {i k : Nat} (hi : i < 2) (hk : k < 8) :
    ∃ w, checksum p s ≠ w ∧ flipBit (frameOf p s) (p.length + 1 + i) k = wireFrame p w := by
  obtain ⟨h, l, hbytes⟩ : ∃ h l, flipBit (be16 (checksum p s)) i k = [h, l] :=
    List.length_eq_two.mp (flipBit_length _ i k)
  refine ⟨fromBe16 h l, fun heq => ?_, ?_⟩
  · have hsame : flipBit (be16 (checksum p s)) i k = be16 (checksum p s) := by
      rw [hbytes, heq, be16_fromBe16]
    exact flipBit_ne_self hi hk hsame
  · rw [frameOf_eq, wireFrame, wireFrame, be16_fromBe16, ← hbytes]
    exact flipBit_append_right (Config.marker :: p) _ i k

/-- A frame that carries its payload's own checksum is accepted, and one that carries another is refused
(42_decoder.md R90, R91). -/
theorem execDec_wireFrame {s : State} {p : List Byte} (w : Word) (hv : s.cfgValid = true) (hmin : 1 ≤ p.length)
    (hmax : p.length + 3 ≤ s.params.maxFrame) :
    execDec (wireFrame p w) s =
      .next (if checksum p s = w then respond .ok p s else respond .checksumMismatch [] s) := by
  have hw : fromBe16 (w.extractLsb' 8 8) (w.extractLsb' 0 8) = w := fromBe16_of_be16 w
  split
  next heq => exact execDec_of_accepted hv hmin hmax (heq.trans hw.symm)
  next hne => exact execDec_of_checksumMismatch hv hmin hmax (hw.symm ▸ hne)

theorem execDec_flipBit_payload {s : State} {p : List Byte} {i : Nat} (hi : i < p.length) (k : Nat)
    (hv : s.cfgValid = true) (hmin : 1 ≤ p.length) (hmax : p.length + 3 ≤ s.params.maxFrame) :
    execDec (flipBit (frameOf p s) (i + 1) k) s =
      .next (if checksum (flipBit p i k) s = checksum p s then respond .ok (flipBit p i k) s
        else respond .checksumMismatch [] s) := by
  have hlen : (flipBit p i k).length = p.length := flipBit_length p i k
  rw [flipBit_frameOf_payload hi, execDec_wireFrame _ hv (by rwa [hlen]) (by rwa [hlen])]

theorem checksum_flipBit_ne {s : State} {p : List Byte} {i k : Nat} (hi : i < p.length) (hk : k < 8)
    (hpoly : s.poly ≠ 0#16) : checksum (flipBit p i k) s ≠ checksum p s :=
  (singleBitErrorChangesCrc p s.init i k hi hk).1 s.poly hpoly

theorem checksum_flipBit_of_zeroPoly {s : State} (hpoly : s.poly = 0#16) (p : List Byte) (i k : Nat) :
    checksum (flipBit p i k) s = checksum p s := by
  rw [checksum, checksum, hpoly, crc16_zeroPoly, crc16_zeroPoly, flipBit_length]

/-- Settles O44: `flipBit_frameOf_marker`, `flipBit_frameOf_payload` and `flipBit_frameOf_checksum` say which frame the
flip makes; its payload's checksum is another one or not by `checksum_flipBit_ne` and `checksum_flipBit_of_zeroPoly`. -/
theorem tamperDetection : Obligations.TamperDetection := by
  unfold Obligations.TamperDetection
  intro s p j k ⟨hfour, _⟩ hv hmin hp hj hk
  have hmax : p.length + 3 ≤ s.params.maxFrame := by omega
  refine ⟨fun hzero => ?_, fun hcheck => ?_, fun hlow hhigh hpoly => ?_, fun hlow hhigh hpoly => ?_⟩
  · obtain ⟨m, h, l, hm, hframe⟩ := flipBit_frameOf_marker p s hk
    rw [hzero, exec_dec, hframe, execDec_of_invalidStart h l hv hmin hmax hm, respond_nil_eq]
    rfl
  · obtain ⟨i, rfl⟩ := Nat.exists_eq_add_of_le hcheck
    obtain ⟨w, hw, hframe⟩ := flipBit_frameOf_checksum p s (i := i) (by omega) hk
    rw [exec_dec, hframe, execDec_wireFrame w hv hmin hmax, if_neg hw, respond_nil_eq]
    rfl
  · obtain ⟨i, rfl⟩ := Nat.exists_eq_add_of_le' hlow
    rw [exec_dec, execDec_flipBit_payload hhigh k hv hmin hmax, if_neg (checksum_flipBit_ne hhigh hk hpoly),
      respond_nil_eq]
    rfl
  · obtain ⟨i, rfl⟩ := Nat.exists_eq_add_of_le' hlow
    rw [exec_dec, execDec_flipBit_payload hhigh k hv hmin hmax, if_pos (checksum_flipBit_of_zeroPoly hpoly p i k),
      respond_ok_eq, flipBit_length, Nat.add_sub_cancel]

end Sys2Proof.Machine

/-! ## The one status of a command: the first cause of the priority table (60_exceptions.md R102) -/

namespace Sys2Proof.Machine

/-- In `s` a command with outcome `o` completes and appends one response, whose status byte is `st`
(30_encoding.md R49). -/
def Reports (s : State) (o : Host.Outcome State Fault Refusal) (st : Byte) : Prop :=
  ∃ t d, o = .next t ∧ t.respq = s.respq ++ [st] ++ lenBytes d.length ++ d

theorem reports_respond (st : Status) (d : List Byte) {s s' : State} (hq : s'.respq = s.respq) :
    Reports s (.next (respond st d s')) (statusCode st) := by
  refine ⟨_, d, rfl, ?_⟩
  rw [respond_respq, hq, response_eq]
  simp only [List.append_assoc]

theorem reports_raise (st : Status) (s : State) : Reports s (raise st s) (statusCode st) := reports_respond st [] rfl

/-- A check of a command against the cause of the table that it decides. -/
theorem Reports.ite {s : State} {o o' : Host.Outcome State Fault Refusal} {st st' : Byte} {c c' : Prop} [Decidable c]
    [Decidable c'] (hc : c ↔ c') (hpos : Reports s o st) (hneg : ¬ c → Reports s o' st') :
    Reports s (if c then o else o') (if c' then st else st') := by
  by_cases h : c
  · rwa [if_pos h, if_pos (hc.1 h)]
  · rw [if_neg h, if_neg (mt hc.2 h)]
    exact hneg h

/-! The causes of the table that are left for each opcode. -/

theorem rankedStatus_of_illegal {opc : Byte} (h : opc ∉ ([0x01, 0x02, 0x03, 0x04] : List Byte)) (d : List Byte)
    (s : State) : rankedStatus opc d s = 0x12 := if_pos h

theorem rankedStatus_cfg (d : List Byte) (s : State) :
    rankedStatus 0x01 d s = if d.length ≠ 4 then 0x13 else if s.cfgValid = true then 0x11 else 0x00 := by
  simp [rankedStatus]

theorem rankedStatus_enc (d : List Byte) (s : State) :
    rankedStatus 0x02 d s =
      if s.params.maxFrame - 3 < d.length then 0x13 else if s.cfgValid = false then 0x10 else 0x00 := by
  simp [rankedStatus]

theorem rankedStatus_crc (d : List Byte) (s : State) :
    rankedStatus 0x04 d s = if s.cfgValid = false then 0x10 else 0x00 := by
  simp [rankedStatus]

theorem rankedStatus_dec (d : List Byte) (s : State) :
    rankedStatus 0x03 d s =
      if s.params.maxFrame < d.length then 0x13
      else if s.cfgValid = false then 0x10
      else if d.length < 4 then 0x01
      else if d.head? ≠ some 0x7E then 0x02
      else if wordBytes (checksum (frameCandidate d) s) ≠ d.drop (d.length - 2) then 0x03
      else 0x00 := by
  simp [rankedStatus, checksum, frameCandidate, memRead]

/-! The two checks of DEC that read the frame's bytes, in the words of the table. -/

theorem be16_inj {v w : Word} : be16 v = be16 w ↔ v = w := by
  refine ⟨fun h => ?_, congrArg be16⟩
  simp only [be16, List.cons.injEq, and_true] at h
  rw [← fromBe16_of_be16 v, h.1, h.2, fromBe16_of_be16]

theorem frameMarker_eq_iff {f : List Byte} (hf : 3 ≤ f.length) (b : Byte) : frameMarker f = b ↔ f.head? = some b := by
  obtain ⟨m, cand, h, l, rfl⟩ := frame_split hf
  rw [(frame_fields m cand h l).1]
  simp

/-- The last two bytes of a frame are its declared checksum, high byte first (42_decoder.md R88). -/
theorem drop_eq_be16_frameDeclared {f : List Byte} (hf : 3 ≤ f.length) :
    f.drop (f.length - 2) = be16 (frameDeclared f) := by
  obtain ⟨m, cand, h, l, rfl⟩ := frame_split hf
  rw [(frame_fields m cand h l).2.2, be16_fromBe16]
  simp

theorem eq_frameDeclared_iff {f : List Byte} (hf : 3 ≤ f.length) (w : Word) :
    w = frameDeclared f ↔ wordBytes w = f.drop (f.length - 2) := by
  have hw : wordBytes w = be16 w := (be16_eq w).symm
  rw [hw, drop_eq_be16_frameDeclared hf, be16_inj]

theorem execCfg_reports (d : List Byte) (s : State) : Reports s (execCfg d s) (rankedStatus 0x01 d s) := by
  rw [rankedStatus_cfg]
  exact .ite .rfl (reports_raise .lengthOutOfRange s) fun _ =>
    .ite .rfl (reports_raise .alreadyConfigured s) fun _ => reports_respond .ok [] rfl

theorem execEnc_reports (d : List Byte) (s : State) : Reports s (execEnc d s) (rankedStatus 0x02 d s) := by
  rw [rankedStatus_enc]
  exact .ite .rfl (reports_raise .lengthOutOfRange s) fun _ =>
    .ite .rfl (reports_raise .notConfigured s) fun _ => reports_respond .ok _ rfl

theorem execCrc_reports (d : List Byte) (s : State) : Reports s (execCrc d s) (rankedStatus 0x04 d s) := by
  rw [rankedStatus_crc]
  exact .ite .rfl (reports_raise .notConfigured s) fun _ => reports_respond .ok _ rfl

/-- DEC's checks stand in the table's order, and those of the frame's bytes come behind the one of its length
(42_decoder.md R93). -/
theorem execDec_reports (d : List Byte) (s : State) : Reports s (execDec d s) (rankedStatus 0x03 d s) := by
  rw [rankedStatus_dec]
  refine .ite .rfl (reports_raise .lengthOutOfRange s) fun _ => .ite .rfl (reports_raise .notConfigured s) fun _ =>
    .ite .rfl (reports_raise .frameTooShort s) fun hlong => ?_
  have hd : 3 ≤ d.length := Nat.le_of_succ_le (Nat.not_lt.mp hlong)
  exact .ite (frameMarker_eq_iff hd _).not (reports_raise .invalidStart s) fun _ =>
    .ite (eq_frameDeclared_iff hd _).not (reports_raise .checksumMismatch s) fun _ => reports_respond .ok _ rfl

theorem exec_reports (i : Instr) (s : State) : Reports s (exec i s) (rankedStatus i.opc i.data s) := by
  cases i with
  | cfg d => exact execCfg_reports d s
  | enc d => exact execEnc_reports d s
  | dec d => exact execDec_reports d s
  | crc d => exact execCrc_reports d s

/-- Settles O38: by its opcode a complete command is one of the four, which report by `exec_reports`, or illegal, which
is the first cause of the table. -/
theorem statusIsFirstRankedCause : Obligations.StatusIsFirstRankedCause := by
  unfold Obligations.StatusIsFirstRankedCause
  intro s opc hi lo data hlen
  rcases decodeOpcode_cases opc data [] with ⟨i, rfl, rfl, hcommand⟩ | ⟨hill, -⟩
  · have hdecode := decode_of_length i.opc [] hlen
    rw [List.append_nil, hcommand] at hdecode
    rw [execute, hdecode]
    exact exec_reports i s
  · rw [execute_of_illegal hill hlen, rankedStatus_of_illegal hill]
    exact reports_respond .illegalCommand [] rfl

end Sys2Proof.Machine

/-! ## Reset between two bytes of the command stream (70_reset_and_hazards.md R117) -/

namespace Sys2Proof.Machine

/-- With `PENDING` empty, the byte the host writes is the first one of a command: one byte completes none
(20_memory.md R31, 30_encoding.md R47). -/
theorem step_write_of_pending_nil {s : State} {b : Byte} {es : List HostEvent} (hp : s.pending = [])
    (hin : s.inputs = .write b :: es) : step s = .next { s with inputs := es, pending := [b] } := by
  have hprefix : ProperPrefix [b] := .inl (by simp)
  rw [← run_one]
  exact run_properPrefix hprefix hp hin

/-- Settles O13: `step_reset` is the state after the event, whose `PENDING` is empty, so a byte after it begins a command
by `step_write_of_pending_nil`. -/
theorem resetDropsPendingAndResponses : Obligations.ResetDropsPendingAndResponses := by
  unfold Obligations.ResetDropsPendingAndResponses
  intro s es hin
  refine ⟨resetEvent (withInputs es s), step_reset hin, resetEvent_cfgValid _, resetEvent_pending _, resetEvent_respq _,
    resetEvent_inputs _, resetEvent_params _, fun b es' hes => ?_⟩
  exact step_write_of_pending_nil (resetEvent_pending _) hes

end Sys2Proof.Machine

/-! ## The decoder and the encoder are inverse (30_encoding.md R45 to R48, R51) -/

namespace Sys2Proof.Machine

/-- With its length in the header, a command's bytes are its opcode, the two bytes of `LEN` and its data. -/
theorem encode_of_length {i : Instr} {hi lo : Byte} (h : i.data.length = be16Nat hi lo) :
    encode i = i.opc :: hi :: lo :: i.data := by
  rw [encode, header, h, ← fromBe16_eq_ofNat, be16_fromBe16]
  rfl

theorem exists_header_of_wf {i : Instr} (h : i.wf = true) : ∃ hi lo, i.data.length = be16Nat hi lo :=
  ⟨_, _, by rw [← fromBe16_toNat_eq_be16Nat, fromBe16_ofNat ((wf_iff i).1 h)]⟩

theorem decodeOpcode_opc (i : Instr) (rest : List Byte) : decodeOpcode i.opc i.data rest = .command i rest := by
  cases i <;> rfl

/-- The decoder is a left inverse of the encoder: it finds `LEN` in the header and then reads the opcode back. -/
theorem decode_encode_append {i : Instr} (h : i.wf = true) (rest : List Byte) :
    decode (encode i ++ rest) = .command i rest := by
  obtain ⟨hi, lo, hlen⟩ := exists_header_of_wf h
  rw [encode_of_length hlen]
  exact (decode_of_length i.opc rest hlen).trans (decodeOpcode_opc i rest)

/-- Settles O1: `decode_encode_append`. -/
theorem decodeInvertsEncode : Obligations.DecodeInvertsEncode := by
  unfold Obligations.DecodeInvertsEncode
  exact fun i rest h => decode_encode_append h rest

theorem decode_of_properPrefix {bs : List Byte} (h : ProperPrefix bs) : decode bs = .incomplete := by
  match bs with
  | [] | [_] | [_, _] => rfl
  | opc :: hi :: lo :: body =>
    have hlt : body.length < be16Nat hi lo := by
      rcases h with hshort | ⟨_, _, _, _, heq, hlt⟩
      · simp only [List.length_cons] at hshort
        omega
      · simp only [List.cons.injEq] at heq
        obtain ⟨-, rfl, rfl, rfl⟩ := heq
        exact hlt
    simp [decode, fromBe16_toNat_eq_be16Nat, hlt]

/-- Settles O2: a proper prefix decodes to no command, so the bytes begin with a complete one, whose opcode and data are
those of the command read by `decodeOpcode_cases`. -/
theorem encodeInvertsDecode : Obligations.EncodeInvertsDecode := by
  unfold Obligations.EncodeInvertsDecode
  intro bs rest i hdecode
  rcases properPrefix_or_complete_append bs with hpartial | ⟨c, rest', ⟨opc, hi, lo, data, rfl, hlen⟩, rfl⟩
  · rw [decode_of_properPrefix hpartial] at hdecode
    exact Decoded.noConfusion hdecode
  · have hopcode : decodeOpcode opc data rest' = .command i rest := (decode_of_length opc rest' hlen).symm.trans hdecode
    rcases decodeOpcode_cases opc data rest' with ⟨j, rfl, rfl, h⟩ | ⟨-, h⟩
    · obtain ⟨rfl, rfl⟩ := Decoded.command.inj (h.symm.trans hopcode)
      exact ⟨(wf_iff j).2 (hlen ▸ be16Nat_le hi lo), by rw [encode_of_length hlen]⟩
    · exact Decoded.noConfusion (h.symm.trans hopcode)

/-- Settles O4: the decoder evaluated on the spec's bytes. -/
theorem specExamplesDecode : Obligations.SpecExamplesDecode := by
  unfold Obligations.SpecExamplesDecode
  decide

end Sys2Proof.Machine

/-! ## The step that completes a command, and the others, one by one (20_memory.md R31, R36) -/

namespace Sys2Proof.Machine

theorem execute_of_command {cmd rest : List Byte} {i : Instr} (h : decode cmd = .command i rest) (s : State) :
    execute cmd s = exec i s := by
  rw [execute, h]

theorem completeCommand_encode {i : Instr} (h : i.wf = true) : CompleteCommand (encode i) := by
  obtain ⟨hi, lo, hlen⟩ := exists_header_of_wf h
  exact ⟨i.opc, hi, lo, i.data, encode_of_length hlen, hlen⟩

theorem execute_encode {i : Instr} (h : i.wf = true) (s : State) : execute (encode i) s = exec i s := by
  have hdecode := decode_encode_append h []
  rw [List.append_nil] at hdecode
  exact execute_of_command hdecode s

/-- Settles O9: `run_completeCommand` over the bytes of the command, which run it by `execute_encode`. -/
theorem commandRunsAtItsLastByte : Obligations.CommandRunsAtItsLastByte := by
  unfold Obligations.CommandRunsAtItsLastByte
  intro s i es hwf hp hin
  rw [run_completeCommand (completeCommand_encode hwf) hp hin, execute_encode hwf]

theorem step_of_complete {s : State} {b : Byte} {es : List HostEvent} (hin : s.inputs = .write b :: es)
    (hc : CompleteCommand (s.pending ++ [b])) :
    step s = retire (execute (s.pending ++ [b]) { s with inputs := es, pending := s.pending ++ [b] }) := by
  rw [step_write hin]
  rcases takeByte_cases b (withInputs es s) with ⟨hpartial, -⟩ | ⟨-, h⟩
  · exact absurd (hpartial.symm.trans ((isComplete_iff _).2 hc)) Bool.noConfusion
  · exact h

theorem step_of_not_complete {s : State} {b : Byte} {es : List HostEvent} (hin : s.inputs = .write b :: es)
    (hc : ¬ CompleteCommand (s.pending ++ [b])) :
    step s = .next { s with inputs := es, pending := s.pending ++ [b] } := by
  rw [step_write hin]
  rcases takeByte_cases b (withInputs es s) with ⟨-, h⟩ | ⟨hcomplete, -⟩
  · exact h
  · exact absurd ((isComplete_iff _).1 hcomplete) hc

/-- Settles O6: `step_of_complete`, where the completed bytes run the command they decode to. -/
theorem stepRunsDecodedCommand : Obligations.StepRunsDecodedCommand := by
  unfold Obligations.StepRunsDecodedCommand
  intro s b es i hin hc hdecode
  have hstep := step_of_complete hin hc
  rw [execute_of_command hdecode] at hstep
  exact ⟨hstep, fun t ht => hstep.trans (congrArg retire ht)⟩

/-- Settles O7: `step_of_not_complete`. -/
theorem stepHoldsPartialCommand : Obligations.StepHoldsPartialCommand := by
  unfold Obligations.StepHoldsPartialCommand
  exact fun s b es hin hc => step_of_not_complete hin hc

/-- Settles O11: `step_idle`. -/
theorem idleKeepsState : Obligations.IdleKeepsState := by
  unfold Obligations.IdleKeepsState
  exact fun s hin => step_idle hin

/-- Settles O12: `step_take`, whose tail of `RESPQ` is what follows its head. -/
theorem takeRemovesOldestByte : Obligations.TakeRemovesOldestByte := by
  unfold Obligations.TakeRemovesOldestByte
  intro s b q es hin hq
  rw [step_take hin, takeResponse, withInputs, hq, List.tail_cons]

/-- Settles O14: the fields of the reset state. -/
theorem resetStateIsUnconfigured : Obligations.ResetStateIsUnconfigured := by
  unfold Obligations.ResetStateIsUnconfigured
  exact ⟨resetWith_cfgValid _, resetWith_pending _, resetWith_respq _, congrArg Params.maxFrame (resetWith_params _)⟩

end Sys2Proof.Machine

/-! ## Everything a step can do, as one relation between the states; every run is safe (60_exceptions.md R97) -/

namespace Sys2Proof.Machine

/-- The states a command can leave, with what `RLEN` needs of a response's data (30_encoding.md R49, R50). -/
inductive Executes (s : State) : State → Prop
  /-- A status alone, and the state as it was (60_exceptions.md R103). -/
  | status (st : Status) : Executes s (respond st [] s)
  /-- OK with data, and the state as it was. -/
  | data (d : List Byte) (hfits : s.params.Legal → d.length ≤ 65535) : Executes s (respond .ok d s)
  /-- The one CFG that succeeds (40_crc.md R74). -/
  | loaded (poly init : Word) (hv : s.cfgValid = false) : Executes s (respond .ok [] (loadConfig poly init s))

theorem exec_executes (i : Instr) (s : State) : ∃ t, exec i s = .next t ∧ Executes s t := by
  cases i with
  | cfg d =>
    rcases execCfg_cases d s with ⟨st, -, h⟩ | ⟨hv, -, h⟩
    · exact ⟨_, h, .status st⟩
    · exact ⟨_, h, .loaded _ _ hv⟩
  | enc d =>
    rcases execEnc_cases d s with ⟨st, -, h⟩ | ⟨-, hd, h⟩
    · exact ⟨_, h, .status st⟩
    · refine ⟨_, h, .data _ fun ⟨hmin, hmax⟩ => ?_⟩
      rw [wireFrame_length]
      unfold maxPayload at hd
      omega
  | dec d =>
    rcases execDec_cases d s with ⟨st, -, h⟩ | ⟨-, hd, -, h⟩
    · exact ⟨_, h, .status st⟩
    · have hcand := frameCandidate_length_le d
      exact ⟨_, h, .data _ fun ⟨_, hmax⟩ => by omega⟩
  | crc d =>
    rcases execCrc_cases d s with ⟨-, h⟩ | ⟨-, h⟩
    · exact ⟨_, h, .status .notConfigured⟩
    · exact ⟨_, h, .data _ fun _ => by simp⟩

theorem CompleteCommand.execute_executes {cmd : List Byte} (hc : CompleteCommand cmd) (s : State) :
    ∃ t, execute cmd s = .next t ∧ Executes s t := by
  rcases hc.execute_eq s with ⟨i, h⟩ | h
  · rw [h]
    exact exec_executes i s
  · exact ⟨_, h, .status .illegalCommand⟩

/-- One step by the host's act it takes: none, a byte that completes no command, a command's last byte, the taking of a
response byte, or a reset. -/
inductive StepsTo (s : State) : State → Prop
  | idle (hin : s.inputs = []) : StepsTo s s
  | hold {b : Byte} {es : List HostEvent} (hin : s.inputs = .write b :: es)
      (hc : ¬ CompleteCommand (s.pending ++ [b])) : StepsTo s (appendPending b (withInputs es s))
  | command {b : Byte} {es : List HostEvent} {t : State} (hin : s.inputs = .write b :: es)
      (ht : Executes (appendPending b (withInputs es s)) t) : StepsTo s (clearPending t)
  | take {es : List HostEvent} (hin : s.inputs = .take :: es) : StepsTo s (takeResponse (withInputs es s))
  | reset {es : List HostEvent} (hin : s.inputs = .reset :: es) : StepsTo s (resetEvent (withInputs es s))

theorem step_stepsTo (s : State) : ∃ t, step s = .next t ∧ StepsTo s t := by
  match hin : s.inputs with
  | [] => exact ⟨_, step_idle hin, .idle hin⟩
  | .take :: es => exact ⟨_, step_take hin, .take hin⟩
  | .reset :: es => exact ⟨_, step_reset hin, .reset hin⟩
  | .write b :: es =>
    by_cases hc : CompleteCommand (s.pending ++ [b])
    · obtain ⟨t, ht, hexec⟩ := hc.execute_executes (appendPending b (withInputs es s))
      exact ⟨_, (step_of_complete hin hc).trans (congrArg retire ht), .command hin hexec⟩
    · exact ⟨_, step_of_not_complete hin hc, .hold hin hc⟩

theorem stepsTo_of_step {s t : State} (h : step s = .next t) : StepsTo s t := by
  obtain ⟨u, hu, hsteps⟩ := step_stepsTo s
  obtain rfl : u = t := Host.Outcome.next.inj (hu.symm.trans h)
  exact hsteps

theorem run_next (n : Nat) (s : State) : ∃ t, run n s = .next t := by
  induction n generalizing s with
  | zero => exact ⟨s, rfl⟩
  | succ n ih =>
    obtain ⟨u, hu, -⟩ := step_stepsTo s
    rw [run_succ n hu]
    exact ih u

/-- Settles O15: `run_next`, since every step answers a next state by `step_stepsTo`. -/
theorem everyRunIsSafe : Obligations.EveryRunIsSafe := by
  unfold Obligations.EveryRunIsSafe
  exact fun s n => run_next n s

theorem Executes.params_eq {s t : State} (h : Executes s t) : t.params = s.params := by
  cases h <;> rfl

theorem StepsTo.params_eq {s t : State} (h : StepsTo s t) : t.params = s.params := by
  cases h with
  | command hin ht => exact ht.params_eq
  | _ => rfl

theorem run_params_eq {n : Nat} {s t : State} (h : run n s = .next t) : t.params = s.params := by
  induction n generalizing s with
  | zero =>
    obtain rfl : s = t := by simpa [run] using h
    rfl
  | succ n ih =>
    obtain ⟨u, hu, hsteps⟩ := step_stepsTo s
    rw [run_succ n hu] at h
    exact (ih h).trans hsteps.params_eq

/-- Settles O19: `run_params_eq`, and by `run_of_configured` a run with no reset in it keeps `CFG_VALID`. -/
theorem onlyResetClearsConfiguration : Obligations.OnlyResetClearsConfiguration := by
  unfold Obligations.OnlyResetClearsConfiguration
  refine fun n s t h => ⟨run_params_eq h, fun hv hcleared => ?_⟩
  by_contra hreset
  have hkept := (run_of_configured hv hreset h).cfgValid
  rw [hv, hcleared] at hkept
  exact Bool.noConfusion hkept

end Sys2Proof.Machine

/-! ## Every step keeps the invariants I-1, I-3 and I-4 (10_state.md R29) -/

namespace Sys2Proof.Machine

theorem WholeResponse.length_pos {r : List Byte} (h : WholeResponse r) : 0 < r.length := by
  rcases h with ⟨d, -, rfl⟩ | ⟨st, -, rfl⟩ <;> simp

theorem wholeResponse_status (st : Status) : WholeResponse (response st []) := by
  rw [response_nil]
  cases st with
  | ok => exact .inl ⟨[], by simp, rfl⟩
  | _ => exact .inr ⟨_, by decide, rfl⟩

theorem wholeResponse_ok {d : List Byte} (h : d.length ≤ 65535) : WholeResponse (response .ok d) :=
  .inl ⟨d, h, response_eq .ok d⟩

/-- I-4 speaks of `RESPQ` alone. -/
theorem RespqWhole.congr {s t : State} (h : RespqWhole s) (hq : t.respq = s.respq) : RespqWhole t := by
  unfold RespqWhole at *
  rwa [hq]

theorem respqWhole_of_nil {s : State} (hq : s.respq = []) : RespqWhole s :=
  ⟨[], [], by simp, by simp [hq], by simp⟩

/-- A whole response after whole responses: the first one, of which the host may have taken a part, is the same or
the new one. -/
theorem RespqWhole.append {s t : State} (h : RespqWhole s) {r : List Byte} (hr : WholeResponse r)
    (hq : t.respq = s.respq ++ r) : RespqWhole t := by
  obtain ⟨taken, rs, hrs, hflat, hfirst⟩ := h
  refine ⟨taken, rs ++ [r], ?_, ?_, ?_⟩
  · simpa [or_imp, forall_and] using ⟨hrs, hr⟩
  · simp [hq, ← hflat]
  · cases rs with
    | nil =>
      obtain ⟨rfl, -⟩ := List.append_eq_nil_iff.1 hflat
      simpa using hr.length_pos
    | cons r' rs => simpa using hfirst

/-- Taking a byte of the first response leaves a smaller part of it, or nothing of it and the responses after it. -/
theorem RespqWhole.tail {s t : State} (h : RespqWhole s) (hq : t.respq = s.respq.tail) : RespqWhole t := by
  obtain ⟨taken, rs, hrs, hflat, hfirst⟩ := h
  match hs : s.respq, rs with
  | [], _ => exact respqWhole_of_nil (by rw [hq, hs, List.tail_nil])
  | b :: q, [] => simp [hs] at hflat
  | b :: q, r :: rs =>
    rw [List.forall_mem_cons] at hrs
    obtain ⟨hr, hrs⟩ := hrs
    have hsplit : (taken ++ [b]) ++ q = r ++ rs.flatten := by simpa [hs] using hflat
    have hlen : taken.length < r.length := by simpa using hfirst
    rw [hs, List.tail_cons] at hq
    rcases Nat.lt_or_ge (taken.length + 1) r.length with hpart | hall
    · exact ⟨taken ++ [b], r :: rs, List.forall_mem_cons.2 ⟨hr, hrs⟩, by rw [hq, hsplit, List.flatten_cons],
        by simpa using hpart⟩
    · obtain ⟨-, hrest⟩ := List.append_inj hsplit (by simp; omega)
      refine ⟨[], rs, hrs, by rw [hq, List.nil_append, hrest], fun r' hr' => ?_⟩
      exact (hrs r' (List.mem_of_mem_head? hr')).length_pos

theorem Executes.respqWhole {s t : State} (h : Executes s t) (hl : s.params.Legal) (hq : RespqWhole s) :
    RespqWhole t := by
  cases h with
  | status st => exact hq.append (wholeResponse_status st) rfl
  | data d hfits => exact hq.append (wholeResponse_ok (hfits hl)) rfl
  | loaded poly init hv => exact hq.append (wholeResponse_status .ok) rfl

/-- I-1: a command keeps the configuration, or loads one and builds its table (40_crc.md R74). -/
theorem Executes.tableCoherent {s t : State} (h : Executes s t) (hs : TableCoherent s) : TableCoherent t := by
  cases h with
  | status st => exact hs
  | data d hfits => exact hs
  | loaded poly init hv => exact fun _ i => buildTable_get poly i

theorem properPrefix_nil : ProperPrefix [] := .inl (by simp)

/-- A byte that completes no command leaves a proper prefix of one: before it, none was complete either. -/
theorem ProperPrefix.append_singleton {bs : List Byte} {b : Byte} (h : ProperPrefix bs)
    (hc : ¬ CompleteCommand (bs ++ [b])) : ProperPrefix (bs ++ [b]) := by
  rcases properPrefix_or_complete_append (bs ++ [b]) with hp | ⟨c, rest, hcomplete, heq⟩
  · exact hp
  · rcases List.eq_nil_or_concat rest with rfl | ⟨rest', b', rfl⟩
    · rw [List.append_nil] at heq
      exact absurd (heq ▸ hcomplete) hc
    · rw [List.concat_eq_append, ← List.append_assoc] at heq
      rw [(List.append_inj' heq rfl).1] at h
      exact absurd h (hcomplete.not_properPrefix_append rest')

theorem inv_of_reset {s : State} (hl : s.params.Legal) (hv : s.cfgValid = false) (hp : s.pending = [])
    (hq : s.respq = []) : Inv s where
  params := hl
  table := fun h => Bool.noConfusion (hv.symm.trans h)
  pending := hp ▸ properPrefix_nil
  respq := respqWhole_of_nil hq

/-- Settles O16: `inv_of_reset`. -/
theorem resetMeetsInv : Obligations.ResetMeetsInv := by
  unfold Obligations.ResetMeetsInv
  exact fun p hl => inv_of_reset hl rfl rfl rfl

theorem StepsTo.inv {s t : State} (h : StepsTo s t) (hs : Inv s) : Inv t := by
  obtain ⟨hl, htable, hpending, hrespq⟩ := hs
  cases h with
  | idle hin => exact ⟨hl, htable, hpending, hrespq⟩
  | hold hin hc => exact ⟨hl, htable, hpending.append_singleton hc, hrespq.congr rfl⟩
  | command hin ht =>
    have hwhole := ht.respqWhole hl (hrespq.congr rfl)
    exact ⟨ht.params_eq ▸ hl, ht.tableCoherent htable, properPrefix_nil, hwhole.congr rfl⟩
  | take hin => exact ⟨hl, htable, hpending, hrespq.tail rfl⟩
  | reset hin => exact inv_of_reset hl rfl rfl rfl

/-- Settles O17: `StepsTo.inv`, by the cases of a step. -/
theorem stepKeepsInv : Obligations.StepKeepsInv := by
  unfold Obligations.StepKeepsInv
  exact fun s t hs h => (stepsTo_of_step h).inv hs

end Sys2Proof.Machine

/-! ## What a command answers depends on the command and the configuration alone (20_memory.md sections 4 and 5), and
on no register that is not loaded (10_state.md R29, I-2) -/

namespace Sys2Proof.Machine

/-- Both outcomes are next states, and the states are related by `R`. -/
def BothNext (R : State → State → Prop) (o o' : Host.Outcome State Fault Refusal) : Prop :=
  ∃ s t, o = .next s ∧ o' = .next t ∧ R s t

theorem BothNext.next {R : State → State → Prop} {s t : State} (h : R s t) : BothNext R (.next s) (.next t) :=
  ⟨s, t, rfl, rfl, h⟩

/-- A check that comes out the same on both sides. -/
theorem BothNext.ite {R : State → State → Prop} {o₁ o₂ o₁' o₂' : Host.Outcome State Fault Refusal} {c c' : Prop}
    [Decidable c] [Decidable c'] (hc : c ↔ c') (hpos : BothNext R o₁ o₁') (hneg : ¬ c → BothNext R o₂ o₂') :
    BothNext R (if c then o₁ else o₂) (if c' then o₁' else o₂') := by
  by_cases h : c
  · rwa [if_pos h, if_pos (hc.1 h)]
  · rw [if_neg h, if_neg (mt hc.2 h)]
    exact hneg h

/-- `s'` and `t'` are `s` and `t` with the same bytes appended to `RESPQ`. -/
def SameAnswer (s t s' t' : State) : Prop := ∃ bytes, s' = answered s bytes ∧ t' = answered t bytes

theorem sameAnswer_respond (s t : State) (st : Status) (d : List Byte) :
    SameAnswer s t (respond st d s) (respond st d t) := ⟨response st d, rfl, rfl⟩

theorem raise_sameAnswer (s t : State) (st : Status) : BothNext (SameAnswer s t) (raise st s) (raise st t) :=
  .next (sameAnswer_respond s t st [])

/-- Two states that a command other than CFG cannot tell apart: what it reads is `CFG_VALID`, `MAX_FRAME` and, if
configured, `POLY` and `INIT` (10_state.md section 7). -/
structure SameReads (s t : State) : Prop where
  cfgValid : s.cfgValid = t.cfgValid
  params : s.params = t.params
  poly : s.cfgValid = true → s.poly = t.poly
  init : s.cfgValid = true → s.init = t.init

theorem SameReads.checksum {s t : State} (h : SameReads s t) (hv : ¬ s.cfgValid = false) (d : List Byte) :
    checksum d s = checksum d t := by
  rw [Bool.not_eq_false] at hv
  rw [Machine.checksum, Machine.checksum, h.poly hv, h.init hv]

theorem SameReads.execEnc {s t : State} (h : SameReads s t) (d : List Byte) :
    BothNext (SameAnswer s t) (execEnc d s) (execEnc d t) := by
  refine .ite (by rw [h.params]) (raise_sameAnswer s t _) fun _ =>
    .ite (by rw [h.cfgValid]) (raise_sameAnswer s t _) fun hv => ?_
  have hcheck := h.checksum hv d
  simp only [memRead_all, hcheck]
  exact .next (sameAnswer_respond s t _ _)

theorem SameReads.execCrc {s t : State} (h : SameReads s t) (d : List Byte) :
    BothNext (SameAnswer s t) (execCrc d s) (execCrc d t) := by
  refine .ite (by rw [h.cfgValid]) (raise_sameAnswer s t _) fun hv => ?_
  rw [h.checksum hv]
  exact .next (sameAnswer_respond s t _ _)

theorem SameReads.execDec {s t : State} (h : SameReads s t) (d : List Byte) :
    BothNext (SameAnswer s t) (execDec d s) (execDec d t) := by
  refine .ite (by rw [h.params]) (raise_sameAnswer s t _) fun _ =>
    .ite (by rw [h.cfgValid]) (raise_sameAnswer s t _) fun hv =>
    .ite .rfl (raise_sameAnswer s t _) fun _ => .ite .rfl (raise_sameAnswer s t _) fun _ => ?_
  exact .ite (by rw [h.checksum hv]) (raise_sameAnswer s t _) fun _ => .next (sameAnswer_respond s t _ _)

theorem SameReads.exec {s t : State} (h : SameReads s t) {i : Instr} (hi : ∀ d, i ≠ .cfg d) :
    BothNext (SameAnswer s t) (exec i s) (exec i t) := by
  cases i with
  | cfg d => exact absurd rfl (hi d)
  | enc d => exact h.execEnc d
  | dec d => exact h.execDec d
  | crc d => exact h.execCrc d

/-- Settles O42: two configured states of one configuration are `SameReads`. -/
theorem responsesArePure : Obligations.ResponsesArePure := by
  unfold Obligations.ResponsesArePure
  intro i s t hi hvs hvt hpoly hinit hparams
  have hreads : SameReads s t := ⟨hvs.trans hvt.symm, hparams, fun _ => hpoly, fun _ => hinit⟩
  obtain ⟨_, _, hs, ht, bytes, rfl, rfl⟩ := hreads.exec hi
  exact ⟨bytes, hs, ht⟩

/-! While `CFG_VALID = 0`, two states that differ in `POLY`, `INIT` and `TABLE` alone stay so (I-2). -/

theorem SameButUnloaded.sameReads {s t : State} (h : SameButUnloaded s t) : SameReads s t := by
  obtain ⟨hvalid, -, -, -, hparams, hconf⟩ := h
  exact ⟨hvalid, hparams, fun hv => (hconf hv).1, fun hv => (hconf hv).2.1⟩

theorem SameButUnloaded.answered {s t : State} (h : SameButUnloaded s t) (bytes : List Byte) :
    SameButUnloaded (answered s bytes) (answered t bytes) := by
  obtain ⟨hvalid, hp, hq, hin, hparams, hconf⟩ := h
  exact ⟨hvalid, hp, congrArg (· ++ bytes) hq, hin, hparams, hconf⟩

theorem SameButUnloaded.of_sameAnswer {s t s' t' : State} (h : SameButUnloaded s t) (ha : SameAnswer s t s' t') :
    SameButUnloaded s' t' := by
  obtain ⟨bytes, rfl, rfl⟩ := ha
  exact h.answered bytes

theorem BothNext.mono {R R' : State → State → Prop} {o o' : Host.Outcome State Fault Refusal} (h : BothNext R o o')
    (hR : ∀ s t, R s t → R' s t) : BothNext R' o o' := by
  obtain ⟨s, t, hs, ht, hr⟩ := h
  exact ⟨s, t, hs, ht, hR s t hr⟩

theorem SameButUnloaded.loadConfig {s t : State} (h : SameButUnloaded s t) (poly init : Word) :
    SameButUnloaded (loadConfig poly init s) (loadConfig poly init t) := by
  obtain ⟨-, hp, hq, hin, hparams, -⟩ := h
  exact ⟨rfl, hp, hq, hin, hparams, fun _ => ⟨rfl, rfl, rfl⟩⟩

theorem SameButUnloaded.raise {s t : State} (h : SameButUnloaded s t) (st : Status) :
    BothNext SameButUnloaded (raise st s) (raise st t) := .next (h.answered _)

/-- CFG reads `CFG_VALID` alone, and where it succeeds it makes the three registers equal. -/
theorem SameButUnloaded.execCfg {s t : State} (h : SameButUnloaded s t) (d : List Byte) :
    BothNext SameButUnloaded (execCfg d s) (execCfg d t) :=
  .ite .rfl (h.raise _) fun _ => .ite (by rw [h.1]) (h.raise _) fun _ => .next ((h.loadConfig _ _).answered _)

theorem SameButUnloaded.exec {s t : State} (h : SameButUnloaded s t) (i : Instr) :
    BothNext SameButUnloaded (exec i s) (exec i t) := by
  cases i with
  | cfg d => exact h.execCfg d
  | _ => exact (h.sameReads.exec (by simp)).mono fun _ _ ha => h.of_sameAnswer ha

theorem SameButUnloaded.execute {s t : State} (h : SameButUnloaded s t) (cmd : List Byte) :
    BothNext SameButUnloaded (execute cmd s) (execute cmd t) := by
  unfold Machine.execute
  cases decode cmd with
  | command i rest => exact h.exec i
  | illegalOpcode opc d rest => exact h.raise _
  | incomplete => exact .next h

theorem SameButUnloaded.withInputs {s t : State} (h : SameButUnloaded s t) (es : List HostEvent) :
    SameButUnloaded (withInputs es s) (withInputs es t) := by
  obtain ⟨hvalid, hp, hq, -, hparams, hconf⟩ := h
  exact ⟨hvalid, hp, hq, rfl, hparams, hconf⟩

theorem SameButUnloaded.appendPending {s t : State} (h : SameButUnloaded s t) (b : Byte) :
    SameButUnloaded (appendPending b s) (appendPending b t) := by
  obtain ⟨hvalid, hp, hq, hin, hparams, hconf⟩ := h
  exact ⟨hvalid, congrArg (· ++ [b]) hp, hq, hin, hparams, hconf⟩

theorem SameButUnloaded.clearPending {s t : State} (h : SameButUnloaded s t) :
    SameButUnloaded (clearPending s) (clearPending t) := by
  obtain ⟨hvalid, -, hq, hin, hparams, hconf⟩ := h
  exact ⟨hvalid, rfl, hq, hin, hparams, hconf⟩

theorem SameButUnloaded.takeResponse {s t : State} (h : SameButUnloaded s t) :
    SameButUnloaded (takeResponse s) (takeResponse t) := by
  obtain ⟨hvalid, hp, hq, hin, hparams, hconf⟩ := h
  exact ⟨hvalid, hp, congrArg List.tail hq, hin, hparams, hconf⟩

theorem SameButUnloaded.resetEvent {s t : State} (h : SameButUnloaded s t) :
    SameButUnloaded (resetEvent s) (resetEvent t) := by
  obtain ⟨-, -, -, hin, hparams, -⟩ := h
  exact ⟨rfl, rfl, rfl, hin, hparams, fun hv => Bool.noConfusion hv⟩

theorem BothNext.retire {o o' : Host.Outcome State Fault Refusal} (h : BothNext SameButUnloaded o o') :
    BothNext SameButUnloaded (retire o) (retire o') := by
  obtain ⟨s, t, rfl, rfl, h⟩ := h
  exact .next h.clearPending

theorem SameButUnloaded.takeByte {s t : State} (h : SameButUnloaded s t) (b : Byte) :
    BothNext SameButUnloaded (takeByte b s) (takeByte b t) := by
  have happ := h.appendPending b
  have hpending : (Machine.appendPending b s).pending = (Machine.appendPending b t).pending := happ.2.1
  refine .ite (by rw [hpending]) ?_ fun _ => .next happ
  rw [hpending]
  exact (happ.execute _).retire

theorem SameButUnloaded.step {s t : State} (h : SameButUnloaded s t) : BothNext SameButUnloaded (step s) (step t) := by
  have ⟨_, _, _, hin, _, _⟩ := h
  match hs : s.inputs with
  | [] =>
    rw [step_idle hs, step_idle (hin ▸ hs)]
    exact .next h
  | .write b :: es =>
    rw [step_write hs, step_write (hin ▸ hs)]
    exact (h.withInputs es).takeByte b
  | .take :: es =>
    rw [step_take hs, step_take (hin ▸ hs)]
    exact .next (h.withInputs es).takeResponse
  | .reset :: es =>
    rw [step_reset hs, step_reset (hin ▸ hs)]
    exact .next (h.withInputs es).resetEvent

/-- Settles O20: `SameButUnloaded.step` carried through the two runs. -/
theorem unloadedRegistersAreUnobservable : Obligations.UnloadedRegistersAreUnobservable := by
  unfold Obligations.UnloadedRegistersAreUnobservable
  intro n
  induction n with
  | zero => exact fun s t h => ⟨s, t, rfl, rfl, h⟩
  | succ n ih =>
    intro s t h
    obtain ⟨s', t', hs, ht, h'⟩ := h.step
    rw [run_succ n hs, run_succ n ht]
    exact ih s' t' h'

end Sys2Proof.Machine

/-! ## The answers of CFG and CRC, and of every command on an unconfigured block (40_crc.md section 4,
70_reset_and_hazards.md section 2) -/

namespace Sys2Proof.Machine

theorem execCfg_of_badLength {d : List Byte} (hd : d.length ≠ 4) (s : State) :
    execCfg d s = .next (respond .lengthOutOfRange [] s) := if_pos hd

/-- Settles O29: `execCfg_of_badLength` and `execCfg_of_configured`. -/
theorem cfgRefusals : Obligations.CfgRefusals := by
  unfold Obligations.CfgRefusals
  refine fun s d => ⟨fun hd => ?_, fun hd hv => ?_⟩
  · exact (execCfg_of_badLength hd s).trans (congrArg _ (respond_nil_eq _ s))
  · exact (execCfg_of_configured hv hd).trans (congrArg _ (respond_nil_eq _ s))

theorem wordBytes_eq_be16 (w : Word) : wordBytes w = be16 w := (be16_eq w).symm

theorem execCrc_of_configured {s : State} (hv : s.cfgValid = true) (d : List Byte) :
    execCrc d s = .next (answered s ([0x00, 0x00, 0x02] ++ wordBytes (checksum d s))) := by
  rw [execCrc, hv, if_neg Bool.false_ne_true.symm, memRead_all, respond_ok_eq, be16_length, wordBytes_eq_be16]
  rfl

/-- Settles O30: `execCrc_of_configured`. -/
theorem crcAnswersChecksum : Obligations.CrcAnswersChecksum := by
  unfold Obligations.CrcAnswersChecksum
  exact fun s d hv => execCrc_of_configured hv d

/-- A coherent `TABLE` is the built one (10_state.md R29, I-1). -/
theorem table_eq_buildTable {s : State} (hv : s.cfgValid = true) (h : TableCoherent s) : s.table = buildTable s.poly := by
  ext1 i hi
  exact (h hv ⟨i, hi⟩).trans (buildTable_get s.poly ⟨i, hi⟩).symm

/-- Settles O31: the CRC through the built table is the bitwise one by `tableDrivenCrcAgrees`. -/
theorem crcAnswerIsTheTableDrivenOne : Obligations.CrcAnswerIsTheTableDrivenOne := by
  unfold Obligations.CrcAnswerIsTheTableDrivenOne
  intro s d hv htable
  rw [table_eq_buildTable hv htable, tableDrivenCrcAgrees.2]
  exact execCrc_of_configured hv d

theorem execEnc_of_unconfigured {s : State} {p : List Byte} (hv : s.cfgValid = false)
    (hp : p.length ≤ s.params.maxFrame - 3) : execEnc p s = .next (respond .notConfigured [] s) := by
  rw [execEnc, maxPayload, if_neg (Nat.not_lt.mpr hp), if_pos hv, raise_eq]

theorem execDec_of_unconfigured {s : State} {f : List Byte} (hv : s.cfgValid = false)
    (hf : f.length ≤ s.params.maxFrame) : execDec f s = .next (respond .notConfigured [] s) := by
  rw [execDec, if_neg (Nat.not_lt.mpr hf), if_pos hv, raise_eq]

theorem execCrc_of_unconfigured {s : State} (hv : s.cfgValid = false) (d : List Byte) :
    execCrc d s = .next (respond .notConfigured [] s) := if_pos hv

/-- Settles O34: `execEnc_of_unconfigured`, `execDec_of_unconfigured` and `execCrc_of_unconfigured`. -/
theorem unconfiguredCommandsAreRefused : Obligations.UnconfiguredCommandsAreRefused := by
  unfold Obligations.UnconfiguredCommandsAreRefused
  refine fun s d hv => ⟨fun hd => ?_, fun hd => ?_, ?_⟩
  · exact (execEnc_of_unconfigured hv hd).trans (congrArg _ (respond_nil_eq _ s))
  · exact (execDec_of_unconfigured hv hd).trans (congrArg _ (respond_nil_eq _ s))
  · exact (execCrc_of_unconfigured hv d).trans (congrArg _ (respond_nil_eq _ s))

theorem execDec_of_tooLong {s : State} {f : List Byte} (hf : s.params.maxFrame < f.length) :
    execDec f s = .next (respond .lengthOutOfRange [] s) := if_pos hf

/-- Settles O37: `execDec_of_tooLong`; and by `execDec_cases` DEC answers a refusal, whose status `respond_eq_answered_ok`
tells from OK, or the candidate of a frame in range, three bytes shorter than the frame. -/
theorem decBoundsFrame : Obligations.DecBoundsFrame := by
  unfold Obligations.DecBoundsFrame
  intro s f _
  refine ⟨fun hlong => (execDec_of_tooLong hlong).trans (congrArg _ (respond_nil_eq _ s)), fun cand hanswer => ?_⟩
  rcases execDec_cases f s with ⟨st, hst, hrefused⟩ | ⟨-, hf, -, haccepted⟩
  · rw [exec_dec, hrefused, Host.Outcome.next.injEq] at hanswer
    obtain ⟨rfl, -⟩ := respond_eq_answered_ok hanswer
    exact absurd hst (by decide)
  · rw [exec_dec, haccepted, Host.Outcome.next.injEq] at hanswer
    obtain ⟨-, rfl⟩ := respond_eq_answered_ok hanswer
    have hcand := frameCandidate_length_le f
    omega

end Sys2Proof.Machine

/-! ## What every command leaves unchanged (10_state.md section 7, 60_exceptions.md R103) -/

namespace Sys2Proof.Machine

theorem statusCode_mem (st : Status) :
    statusCode st ∈ ([0x00, 0x01, 0x02, 0x03, 0x10, 0x11, 0x12, 0x13] : List Byte) := by
  cases st <;> decide

/-- Settles O40: of the cases of `Executes` only a status alone can be an error, and it leaves the state as it was. -/
theorem errorsArePrecise : Obligations.ErrorsArePrecise := by
  unfold Obligations.ErrorsArePrecise
  intro s t i h
  obtain ⟨u, hu, hexec⟩ := exec_executes i s
  obtain rfl : u = t := Host.Outcome.next.inj (hu.symm.trans h)
  cases hexec with
  | status st => exact ⟨statusCode st, _, rfl, statusCode_mem st, fun _ => respond_nil_eq st s⟩
  | data d hfits => exact ⟨0x00, _, rfl, statusCode_mem .ok, fun herror => absurd rfl herror⟩
  | loaded poly init hv => exact ⟨0x00, _, rfl, statusCode_mem .ok, fun herror => absurd rfl herror⟩

/-- CFG keeps everything but the configuration and the end of `RESPQ`, as every command does. -/
theorem Executes.frame {s t : State} (h : Executes s t) :
    t.pending = s.pending ∧ t.inputs = s.inputs ∧ t.params = s.params ∧ s.respq <+: t.respq := by
  cases h <;> exact ⟨rfl, rfl, rfl, List.prefix_append _ _⟩

theorem SameReads.refl (s : State) : SameReads s s := ⟨rfl, rfl, fun _ => rfl, fun _ => rfl⟩

/-- A command other than CFG only appends to `RESPQ`. -/
theorem exec_eq_answered {i : Instr} (hi : ∀ d, i ≠ .cfg d) (s : State) :
    ∃ bytes, exec i s = .next (answered s bytes) := by
  obtain ⟨_, _, hs, -, bytes, rfl, -⟩ := (SameReads.refl s).exec hi
  exact ⟨bytes, hs⟩

/-- Settles O41: `exec_eq_answered` for ENC, DEC and CRC, and `Executes.frame` for CFG. -/
theorem commandFrames : Obligations.CommandFrames := by
  unfold Obligations.CommandFrames
  refine fun s t d => ⟨fun h => ?_, fun h => ?_⟩
  · obtain ⟨i, hi, hexec⟩ : ∃ i : Instr, (∀ d', i ≠ .cfg d') ∧ exec i s = .next t := by
      rcases h with h | h | h <;> exact ⟨_, by simp, h⟩
    obtain ⟨bytes, hbytes⟩ := exec_eq_answered hi s
    obtain rfl : answered s bytes = t := Host.Outcome.next.inj (hbytes.symm.trans hexec)
    exact ⟨rfl, rfl, rfl, rfl, rfl, rfl, rfl, List.prefix_append _ _⟩
  · obtain ⟨u, hu, hexec⟩ := exec_executes (.cfg d) s
    obtain rfl : u = t := Host.Outcome.next.inj (hu.symm.trans h)
    exact hexec.frame

end Sys2Proof.Machine

/-! ## The residue law, and the two frames that DEC cannot tell from others (70_reset_and_hazards.md R124) -/

namespace Sys2Proof.Machine

/-- The register's own high byte, as input, cancels it: what is left is the low byte, moved up. -/
theorem crcStep_high (c : Word) (poly : Word) : crcStep c (c.extractLsb' 8 8) poly = c <<< 8 := by
  have hzero : tableEntry poly 0#8 = 0#16 := by simp [tableEntry_eq]
  rw [crcStep_eq_tableEntry, BitVec.xor_self, hzero, BitVec.xor_zero]

/-- The high byte of the low byte moved up is the low byte. -/
theorem extractLsb'_shiftLeft_eight (c : Word) : (c <<< 8).extractLsb' 8 8 = c.extractLsb' 0 8 := by
  apply BitVec.eq_of_toNat_eq
  rw [shiftLeft_eight_eq, BitVec.extractLsb'_toNat, BitVec.extractLsb'_toNat, BitVec.toNat_ofNat,
    Nat.shiftRight_eq_div_pow, Nat.shiftRight_zero]
  omega

/-- A register followed by its own two bytes, from itself, is zero: `crcStep_high` twice. -/
theorem crc16_be16_self (poly c : Word) : crc16 (be16 c) poly c = 0#16 := by
  have hnil : crc16 [] poly (c <<< 8 <<< 8) = c <<< 8 <<< 8 := rfl
  rw [be16, crc16_cons, crcStep_high, crc16_cons, ← extractLsb'_shiftLeft_eight, crcStep_high, hnil,
    ← BitVec.shiftLeft_add]
  exact BitVec.shiftLeft_eq_zero le_rfl

theorem crc16_append_be16 (a : List Byte) (poly init : Word) : crc16 (a ++ be16 (crc16 a poly init)) poly init = 0#16 := by
  rw [crc16_append, crc16_be16_self]

/-- Settles O27: `crc16_append_be16`. -/
theorem crcResidueIsZero : Obligations.CrcResidueIsZero := by
  unfold Obligations.CrcResidueIsZero
  intro a poly init
  rw [wordBytes_eq_be16]
  exact crc16_append_be16 a poly init

/-- What stands between the first marker and the last checksum of two frames in one read. -/
def betweenFrames (a b : List Byte) (s : State) : List Byte := a ++ wordBytes (checksum a s) ++ [0x7E] ++ b

theorem frameOf_append_frameOf (a b : List Byte) (s : State) :
    frameOf a s ++ frameOf b s = wireFrame (betweenFrames a b s) (checksum b s) := by
  rw [frameOf_eq b, frameOf, betweenFrames, wireFrame, wireFrame]
  simp [Config.marker, checksum]

/-- The first frame leaves zero in the register, from which the second one's marker and payload are taken. -/
theorem checksum_betweenFrames (a b : List Byte) (s : State) :
    checksum (betweenFrames a b s) s = crc16 ([0x7E] ++ b) s.poly 0x0000 := by
  have hzero : crc16 (a ++ wordBytes (checksum a s)) s.poly s.init = 0x0000 := crcResidueIsZero a s.poly s.init
  rw [betweenFrames, List.append_assoc, checksum, crc16_append, hzero]

theorem betweenFrames_length (a b : List Byte) (s : State) : (betweenFrames a b s).length = a.length + b.length + 3 := by
  simp [betweenFrames, wordBytes]
  omega

theorem execDec_frameOf_append_frameOf {s : State} {a b : List Byte} (hv : s.cfgValid = true)
    (hmax : a.length + b.length + 6 ≤ s.params.maxFrame) :
    execDec (frameOf a s ++ frameOf b s) s =
      .next (if crc16 ([0x7E] ++ b) s.poly 0x0000 = crc16 b s.poly s.init then respond .ok (betweenFrames a b s) s
        else respond .checksumMismatch [] s) := by
  have hlen := betweenFrames_length a b s
  rw [frameOf_append_frameOf, execDec_wireFrame _ hv (by omega) (by omega), checksum_betweenFrames, checksum]

/-- Settles O45: `execDec_frameOf_append_frameOf` in its two cases. -/
theorem concatenatedFrames : Obligations.ConcatenatedFrames := by
  unfold Obligations.ConcatenatedFrames
  intro s a b hv hmax
  rw [exec_dec, execDec_frameOf_append_frameOf hv hmax]
  refine ⟨fun heq => ?_, fun hne => ?_⟩
  · have hlen := betweenFrames_length a b s
    rw [if_pos heq, respond_ok_eq, hlen]
    rfl
  · rw [if_neg hne, respond_nil_eq]
    rfl

/-- The low byte moved up, as two bytes. -/
theorem shiftLeft_eight_eq_fromBe16 (c : Word) : c <<< 8 = fromBe16 (c.extractLsb' 0 8) 0x00 := by
  have hzero : (0x00 : Byte).toNat = 0 := rfl
  apply BitVec.eq_of_toNat_eq
  rw [shiftLeft_eight_eq, fromBe16_toNat, BitVec.extractLsb'_toNat, BitVec.toNat_ofNat, Nat.shiftRight_zero, hzero]
  omega

theorem checksum_append_high (a : List Byte) (s : State) :
    checksum (a ++ [(checksum a s).extractLsb' 8 8]) s = checksum a s <<< 8 := by
  have hstep : crc16 [(checksum a s).extractLsb' 8 8] s.poly (checksum a s) = checksum a s <<< 8 :=
    crcStep_high (checksum a s) s.poly
  rw [← hstep]
  exact crc16_append a _ s.poly s.init

/-- The padded frame is the frame of the payload and its checksum's high byte: behind them stand the low byte and the
padding, which is what the register holds after the high byte. -/
theorem frameOf_append_zero (a : List Byte) (s : State) :
    frameOf a s ++ [0x00] =
      wireFrame (a ++ [(checksum a s).extractLsb' 8 8]) (checksum (a ++ [(checksum a s).extractLsb' 8 8]) s) := by
  have hcrc : checksum (a ++ [(checksum a s).extractLsb' 8 8]) s = fromBe16 ((checksum a s).extractLsb' 0 8) 0x00 := by
    rw [checksum_append_high, shiftLeft_eight_eq_fromBe16]
  rw [hcrc, wireFrame, be16_fromBe16, frameOf_eq, wireFrame, be16]
  simp

/-- Settles O46: `frameOf_append_zero` carries its own checksum, so DEC accepts it by `execDec_wireFrame`. -/
theorem paddedFrameIsAccepted : Obligations.PaddedFrameIsAccepted := by
  unfold Obligations.PaddedFrameIsAccepted
  intro s a hv hmax
  have hlen : (a ++ [(checksum a s).extractLsb' 8 8]).length = a.length + 1 := by simp
  have hhigh : (checksum a s).extractLsb' 8 8 = BitVec.ofNat 8 ((checksum a s).toNat / 256) :=
    (List.cons.inj (be16_eq (checksum a s))).1
  rw [exec_dec, frameOf_append_zero, execDec_wireFrame _ hv (by omega) (by omega), if_pos rfl, respond_ok_eq, hlen, hhigh]
  rfl

end Sys2Proof.Machine

/-! ## The CRC as a remainder over GF(2) (40_crc.md R64 to R66) -/

namespace Sys2Proof.Machine

open Polynomial

/-- The low `n` bits of `v` as a polynomial over GF(2), bit `k` the coefficient of `x^k` (40_crc.md R66). -/
noncomputable def gf2Poly (n v : Nat) : (ZMod 2)[X] := ∑ k ∈ Finset.range n, if v.testBit k then X ^ k else 0

/-- A 16-bit register as a polynomial. -/
noncomputable abbrev wordPoly (w : Word) : (ZMod 2)[X] := gf2Poly 16 w.toNat

theorem gf2Poly_zero (n : Nat) : gf2Poly n 0 = 0 := by simp [gf2Poly]

/-- XOR is the sum: two set bits cancel. -/
theorem gf2Poly_xor (n a b : Nat) : gf2Poly n (a ^^^ b) = gf2Poly n a + gf2Poly n b := by
  rw [gf2Poly, gf2Poly, gf2Poly, ← Finset.sum_add_distrib]
  refine Finset.sum_congr rfl fun k _ => ?_
  rw [Nat.testBit_xor]
  cases a.testBit k <;> cases b.testBit k <;> simp [CharTwo.add_self_eq_zero]

/-- A shift by `m` is the product with `x^m`, if the bits that it moves up are counted. -/
theorem gf2Poly_shiftLeft (m n v : Nat) : gf2Poly (m + n) (v <<< m) = X ^ m * gf2Poly n v := by
  rw [gf2Poly, Finset.sum_range_add, gf2Poly, Finset.mul_sum, Finset.sum_eq_zero, zero_add]
  · refine Finset.sum_congr rfl fun k _ => ?_
    simp [Nat.testBit_shiftLeft, pow_add]
  · intro k hk
    have hlow : ¬ m ≤ k := Nat.not_le.mpr (Finset.mem_range.1 hk)
    simp [Nat.testBit_shiftLeft, hlow]

theorem gf2Poly_mod (n v : Nat) : gf2Poly n (v % 2 ^ n) = gf2Poly n v := by
  refine Finset.sum_congr rfl fun k hk => ?_
  simp [Nat.testBit_mod_two_pow, Finset.mem_range.1 hk]

theorem gf2Poly_succ (n v : Nat) : gf2Poly (n + 1) v = gf2Poly n v + if v.testBit n then X ^ n else 0 :=
  Finset.sum_range_succ _ n

theorem degree_gf2Poly_lt (n v : Nat) : (gf2Poly n v).degree < n := by
  refine (degree_sum_le _ _).trans_lt ((Finset.sup_lt_iff (WithBot.bot_lt_coe n)).2 fun k hk => ?_)
  split
  · rw [degree_X_pow]
    exact WithBot.coe_lt_coe.2 (Finset.mem_range.1 hk)
  · rw [degree_zero]
    exact WithBot.bot_lt_coe n

/-- `G(x) = x^16 + POLY(x)` (40_crc.md R66). -/
noncomputable def generator (poly : Word) : (ZMod 2)[X] := X ^ 16 + wordPoly poly

theorem generator_monic (poly : Word) : (generator poly).Monic := monic_X_pow_add (degree_gf2Poly_lt 16 _)

theorem degree_generator (poly : Word) : (generator poly).degree = 16 := by
  rw [generator, degree_add_eq_left_of_degree_lt, degree_X_pow]
  · rfl
  · rw [degree_X_pow]
    exact degree_gf2Poly_lt 16 _

theorem wordPoly_xor (a b : Word) : wordPoly (a ^^^ b) = wordPoly a + wordPoly b := by
  rw [wordPoly, BitVec.toNat_xor, gf2Poly_xor]

/-- An input byte enters the register at bits 15..8. -/
theorem wordPoly_byte (b : Byte) : wordPoly (b.setWidth 16 <<< 8) = X ^ 8 * gf2Poly 8 b.toNat := by
  have hnat : (b.setWidth 16 <<< 8).toNat = b.toNat <<< 8 := by
    rw [BitVec.toNat_shiftLeft, BitVec.toNat_setWidth, Nat.shiftLeft_eq, Nat.shiftLeft_eq]
    omega
  rw [wordPoly, hnat]
  exact gf2Poly_shiftLeft 8 8 b.toNat

/-- A plain shift is the product with `x` but for the bit that leaves the register. -/
theorem X_mul_wordPoly (c : Word) : X * wordPoly c = wordPoly (c <<< 1) + if c.msb then X ^ 16 else 0 := by
  have hmsb : (c.toNat <<< 1).testBit 16 = c.msb := by
    simp [Nat.testBit_shiftLeft, BitVec.msb_eq_getLsbD_last, BitVec.testBit_toNat]
  calc X * wordPoly c
      = gf2Poly 17 (c.toNat <<< 1) := by rw [gf2Poly_shiftLeft 1 16, pow_one]
    _ = wordPoly (c <<< 1) + if c.msb then X ^ 16 else 0 := by
      rw [gf2Poly_succ, hmsb, wordPoly, BitVec.toNat_shiftLeft, gf2Poly_mod]

/-- One shift of the register is the product with `x` modulo `G(x)` (40_crc.md R64). -/
theorem X_mul_wordPoly_eq_crcShift (poly c : Word) :
    X * wordPoly c = wordPoly (crcShift poly c) + if c.msb then generator poly else 0 := by
  rw [X_mul_wordPoly, crcShift]
  cases c.msb
  · simp
  · simp only [if_true, wordPoly_xor, generator]
    linear_combination -(CharTwo.add_self_eq_zero (wordPoly poly))

/-- Congruence modulo `G(x)`, as equality in the quotient ring. -/
noncomputable abbrev modG (poly : Word) : (ZMod 2)[X] →+* AdjoinRoot (generator poly) := AdjoinRoot.mk (generator poly)

theorem modG_crcShift (poly c : Word) : modG poly (wordPoly (crcShift poly c)) = modG poly (X * wordPoly c) := by
  rw [X_mul_wordPoly_eq_crcShift poly, map_add]
  cases c.msb
  · simp
  · simp [AdjoinRoot.mk_self]

theorem modG_crcShifts (poly : Word) (n : Nat) (c : Word) :
    modG poly (wordPoly (crcShifts poly n c)) = modG poly (X ^ n * wordPoly c) := by
  induction n generalizing c with
  | zero => rw [crcShifts, pow_zero, one_mul]
  | succ n ih => rw [crcShifts, ih, map_mul, modG_crcShift, ← map_mul, pow_succ, mul_assoc]

theorem modG_crcStep (poly c : Word) (b : Byte) :
    modG poly (wordPoly (crcStep c b poly)) = modG poly (X ^ 8 * wordPoly c + X ^ 16 * gf2Poly 8 b.toNat) := by
  rw [crcStep, modG_crcShifts, wordPoly_xor, wordPoly_byte]
  ring_nf

/-- The input as a polynomial, the first byte's bit 7 the highest power (40_crc.md R66). -/
noncomputable def inputPoly (d : List Byte) : (ZMod 2)[X] := d.foldl (fun m b => m * X ^ 8 + gf2Poly 8 b.toNat) 0

theorem inputPoly_append_singleton (d : List Byte) (b : Byte) :
    inputPoly (d ++ [b]) = inputPoly d * X ^ 8 + gf2Poly 8 b.toNat := List.foldl_append

/-- What the CRC divides: `init * x^(8 len) + d * x^16` (40_crc.md R66). -/
noncomputable def dividend (d : List Byte) (init : Word) : (ZMod 2)[X] :=
  wordPoly init * X ^ (8 * d.length) + inputPoly d * X ^ 16

theorem dividend_append_singleton (d : List Byte) (b : Byte) (init : Word) :
    dividend (d ++ [b]) init = X ^ 8 * dividend d init + X ^ 16 * gf2Poly 8 b.toNat := by
  rw [dividend, dividend, inputPoly_append_singleton, List.length_append, List.length_singleton]
  ring

/-- The register is the dividend modulo `G(x)`, byte by byte. -/
theorem modG_crc16 (d : List Byte) (poly init : Word) :
    modG poly (wordPoly (crc16 d poly init)) = modG poly (dividend d init) := by
  induction d using List.reverseRecOn with
  | nil => simp [crc16, dividend, inputPoly]
  | append_singleton d b ih =>
    have hstep : crc16 (d ++ [b]) poly init = crcStep (crc16 d poly init) b poly := crc16_append d [b] poly init
    rw [hstep, modG_crcStep, dividend_append_singleton, map_add, map_mul, ih, ← map_mul, ← map_add]

/-- The CRC is the remainder: congruent to the dividend, and of a lower degree than `G(x)`. -/
theorem wordPoly_crc16 (d : List Byte) (poly init : Word) :
    wordPoly (crc16 d poly init) = dividend d init %ₘ generator poly := by
  have hmonic := generator_monic poly
  have hdegree : (wordPoly (crc16 d poly init)).degree < (generator poly).degree := by
    rw [degree_generator]
    exact degree_gf2Poly_lt 16 _
  rw [← (modByMonic_eq_self_iff hmonic).2 hdegree]
  exact modByMonic_eq_of_dvd_sub hmonic (AdjoinRoot.mk_eq_mk.1 (modG_crc16 d poly init))

/-- Settles O21: `wordPoly_crc16`. -/
theorem crcIsPolynomialRemainder : Obligations.CrcIsPolynomialRemainder := by
  unfold Obligations.CrcIsPolynomialRemainder
  exact wordPoly_crc16

end Sys2Proof.Machine
